-- ==== Sys2Proof/Word.lean ====
section
/-! DEFINITION. The word, the byte and the unit number (spec 00_scope.md R7, 10_state.md R34). -/

namespace Sys2Proof

/-- Every register and every memory or store word: 18 bits, bit 17 the most significant (R7). -/
abbrev Word := BitVec 18

/-- One byte of an encoded instruction's image (log 10); the block itself has no bytes (R70). -/
abbrev Byte := BitVec 8

/-- A drive number, 0..7 (R34). -/
abbrev UnitNo := Fin 8

end Sys2Proof
end

