-- ==== Sys2Proof/Config.lean ====
section
/-! DEFINITION. The implementation parameters of spec 00_scope.md R5 and the free values of 93_implementation_defined.md. -/

namespace Sys2Proof

/-- `G2_S0_LOAD`: the reserved group-2 load with sub-code 0 (R5, R97, R161). -/
inductive S0Load where
  | refuse
  | clearField
  deriving DecidableEq, Repr

/-- `G2_SKIP_COND`: the group-2 skip condition (R5, R152). `flags a b` skips when status A has a bit of `a` or status B
a bit of `b`; `uninterpreted` stands for any other condition on the state (log 2). -/
inductive SkipCond where
  | always
  | flags (inA inB : Word)
  | uninterpreted
  deriving DecidableEq, Repr

/-- `READ_MERGE`: how a read phase combines the register with the incoming value (R5, R92). -/
inductive ReadMerge where
  | or
  | replace
  deriving DecidableEq, Repr

/-- `CLEAR_LOAD_MODE`: the clear-only status-A load (R5, R162). -/
inductive ClearLoadMode where
  | andMask
  | bitClear
  deriving DecidableEq, Repr

/-- `ALL_MODE`: the data path of read-all and write-all (R5, R185). -/
inductive AllMode where
  | asPlain
  | noData
  deriving DecidableEq, Repr

/-- The parameters of R5. The machine holds them as a constant part of its state (log 1), so that a statement about every
state is a statement about every parameter value. -/
structure Config where
  numUnits : Nat
  memSize : Nat
  minDispatch : Nat
  seekTicksPerCyl : Nat
  rotTicks : Nat
  g2S0Load : S0Load
  g2SkipCond : SkipCond
  readMerge : ReadMerge
  clearLoadMode : ClearLoadMode
  goAutoclear : Bool
  writeLockEnforced : Bool
  allMode : AllMode
  deriving DecidableEq, Repr

/-- The defaults of R5. -/
def Config.standard : Config where
  numUnits := 8
  memSize := 8192
  minDispatch := 2
  seekTicksPerCyl := 10
  rotTicks := 10
  g2S0Load := .refuse
  g2SkipCond := .always
  readMerge := .or
  clearLoadMode := .andMask
  goAutoclear := false
  writeLockEnforced := true
  allMode := .asPlain

/-- The ranges of R5: 1..8 units, 1..2^18 words of memory, a positive minimum delay (R212). -/
abbrev Config.wf (c : Config) : Prop :=
  1 ≤ c.numUnits ∧ c.numUnits ≤ 8 ∧ 1 ≤ c.memSize ∧ c.memSize ≤ 2 ^ 18 ∧ 1 ≤ c.minDispatch

/-- FREE VALUE: the `k`-th word that a storage fault leaves unspecified (R181, U5; log 7). -/
opaque Config.freeWord : Nat → Word

/-- FREE VALUE: whether a faulted write-check sets WCE (R181, U6; log 7). -/
opaque Config.freeBit : Nat → Bool

/-- FREE VALUE: which of several units due in one tick completes first when the host names none (R215, U8; log 5). -/
opaque Config.tieChoice : Nat → Nat

end Sys2Proof
end

