-- ==== Sys2Proof/Syntax.lean ====
section
/-! DEFINITION. The instructions: one constructor per row of spec/opcode_table.json (30_encoding.md R91, R93, R95, R99). -/

namespace Sys2Proof

/-- The eight functions (10_state.md R24); their 3-bit codes are `Func.code` in Decode.lean. -/
inductive Func where
  | idle | read | write | recal | seek | rdall | wrall | wrchk
  deriving DecidableEq, Repr

/-- The encoded form of an instruction: a command's 7-bit code with its operand (R91, R92), or a status-A word whose FUNC
field names a function (R99, the table's STA_FUNC format). -/
inductive Code where
  | command (cmd7 : BitVec 7) (value : Word)
  | function (statusA : Word)
  deriving DecidableEq, Repr

/-- One constructor per table row. In a command row `x` is the ignored bit CMD7[3], `l`, `r` and `k` are the OTHER pulse
bits of the same command (load, read, skip: R94), and `value` is the operand (R92). A word with several pulse bits matches
several rows; the row of its first phase is the well-formed reading (WellFormed.lean). In a function row `unit`, `ied`,
`iea`, `go` and `flags` are the other fields of the status-A word. -/
inductive Instr where
  /-- SKDE: 000xlr1 (R133). -/
  | skde (x l r : Bool) (value : Word)
  /-- RDSA: 000xl1k (R132). -/
  | rdsa (x l k : Bool) (value : Word)
  /-- LDDA: 000x1rk (R134). -/
  | ldda (x r k : Bool) (value : Word)
  /-- SKAT: 001xlr1 (R137). -/
  | skat (x l r : Bool) (value : Word)
  /-- RDSB: 001xl1k (R136). -/
  | rdsb (x l k : Bool) (value : Word)
  /-- CLRF: 001x1rk (R135). -/
  | clrf (x r k : Bool) (value : Word)
  /-- SKDN: 010xlr1 (R139). -/
  | skdn (x l r : Bool) (value : Word)
  /-- group 1, S = 2, read phase: no action: 010xl1k (R142). -/
  | noRead2 (x l k : Bool) (value : Word)
  /-- LDMA: 010x1rk (R138). -/
  | ldma (x r k : Bool) (value : Word)
  /-- SKER: 011xlr1 (R141). -/
  | sker (x l r : Bool) (value : Word)
  /-- group 1, S = 3, read phase: no action: 011xl1k (R142). -/
  | noRead3 (x l k : Bool) (value : Word)
  /-- LDWC: 011x1rk (R140). -/
  | ldwc (x r k : Bool) (value : Word)
  /-- group 2, S = 0, skip phase: no action: 100xlr1 (R153). -/
  | noSkip0 (x l r : Bool) (value : Word)
  /-- RDCY: 100xl1k (R155). -/
  | rdcy (x l k : Bool) (value : Word)
  /-- LSA0: 100x1rk (R161). -/
  | lsa0 (x r k : Bool) (value : Word)
  /-- SKG2: 101xlr1 (R152). -/
  | skg2 (x l r : Bool) (value : Word)
  /-- RDDA: 101xl1k (R156). -/
  | rdda (x l k : Bool) (value : Word)
  /-- LSAC: 101x1rk (R162). -/
  | lsac (x r k : Bool) (value : Word)
  /-- group 2, S = 2, skip phase: no action: 110xlr1 (R153). -/
  | noSkip2 (x l r : Bool) (value : Word)
  /-- RDMA: 110xl1k (R157). -/
  | rdma (x l k : Bool) (value : Word)
  /-- LSAO: 110x1rk (R163). -/
  | lsao (x r k : Bool) (value : Word)
  /-- group 2, S = 3, skip phase: no action: 111xlr1 (R153). -/
  | noSkip3 (x l r : Bool) (value : Word)
  /-- RDWC: 111xl1k (R158). -/
  | rdwc (x l k : Bool) (value : Word)
  /-- LSAR: 111x1rk (R164). -/
  | lsar (x r k : Bool) (value : Word)
  /-- P = 0 in group 1: 0SSx000 (R95). -/
  | noPulse1 (sub : BitVec 2) (x : Bool) (value : Word)
  /-- P = 0 in group 2: 1SSx000 (R95). -/
  | noPulse2 (sub : BitVec 2) (x : Bool) (value : Word)
  /-- Function code 0, completion of `idle` (R171). -/
  | funcIdle (unit : UnitNo) (ied iea go : Bool) (flags : BitVec 9)
  /-- Function code 1, completion of `read` (R182). -/
  | funcRead (unit : UnitNo) (ied iea go : Bool) (flags : BitVec 9)
  /-- Function code 2, completion of `write` (R183). -/
  | funcWrite (unit : UnitNo) (ied iea go : Bool) (flags : BitVec 9)
  /-- Function code 3, completion of `recal` (R172). -/
  | funcRecal (unit : UnitNo) (ied iea go : Bool) (flags : BitVec 9)
  /-- Function code 4, completion of `seek` (R172, R174). -/
  | funcSeek (unit : UnitNo) (ied iea go : Bool) (flags : BitVec 9)
  /-- Function code 5, completion of `rdall` (R185). -/
  | funcRdall (unit : UnitNo) (ied iea go : Bool) (flags : BitVec 9)
  /-- Function code 6, completion of `wrall` (R185). -/
  | funcWrall (unit : UnitNo) (ied iea go : Bool) (flags : BitVec 9)
  /-- Function code 7, completion of `wrchk` (R184). -/
  | funcWrchk (unit : UnitNo) (ied iea go : Bool) (flags : BitVec 9)
  deriving DecidableEq, Repr

end Sys2Proof
end

