-- ==== Sys2Proof/WellFormed.lean ====
section
/-! DEFINITION. Well-formedness: which instruction terms are the decoder's reading of a word (30_encoding.md R94, log 11). -/

namespace Sys2Proof

/-- A word with several pulse bits is read as the row of its FIRST phase: so a read row has no skip pulse, and a load row
has neither a read nor a skip pulse. Every other term is a second reading of a word and has the same meaning
(log 11). -/
def Instr.wellFormed : Instr → Bool
  | .skde _ _ _ _ => true
  | .rdsa _ _ k _ => !k
  | .ldda _ r k _ => !r && !k
  | .skat _ _ _ _ => true
  | .rdsb _ _ k _ => !k
  | .clrf _ r k _ => !r && !k
  | .skdn _ _ _ _ => true
  | .noRead2 _ _ k _ => !k
  | .ldma _ r k _ => !r && !k
  | .sker _ _ _ _ => true
  | .noRead3 _ _ k _ => !k
  | .ldwc _ r k _ => !r && !k
  | .noSkip0 _ _ _ _ => true
  | .rdcy _ _ k _ => !k
  | .lsa0 _ r k _ => !r && !k
  | .skg2 _ _ _ _ => true
  | .rdda _ _ k _ => !k
  | .lsac _ r k _ => !r && !k
  | .noSkip2 _ _ _ _ => true
  | .rdma _ _ k _ => !k
  | .lsao _ r k _ => !r && !k
  | .noSkip3 _ _ _ _ => true
  | .rdwc _ _ k _ => !k
  | .lsar _ r k _ => !r && !k
  | .noPulse1 _ _ _ => true
  | .noPulse2 _ _ _ => true
  | .funcIdle _ _ _ _ _ => true
  | .funcRead _ _ _ _ _ => true
  | .funcWrite _ _ _ _ _ => true
  | .funcRecal _ _ _ _ _ => true
  | .funcSeek _ _ _ _ _ => true
  | .funcRdall _ _ _ _ _ => true
  | .funcWrall _ _ _ _ _ => true
  | .funcWrchk _ _ _ _ _ => true

/-- The check as a proposition. -/
abbrev Instr.WellFormed (i : Instr) : Prop := i.wellFormed = true

end Sys2Proof
end

