-- ==== Sys2Proof/Decode.lean ====
section
/-! DEFINITION. The decoder, total on any bytes, and after it the encoder (30_encoding.md R91, R93, R95, R99). -/

namespace Sys2Proof

/-- The function of a 3-bit code (10_state.md R24); all eight codes are valid. -/
def Func.ofCode (c : BitVec 3) : Func :=
  match c.getLsbD 2, c.getLsbD 1, c.getLsbD 0 with
  | false, false, false => .idle
  | false, false, true => .read
  | false, true, false => .write
  | false, true, true => .recal
  | true, false, false => .seek
  | true, false, true => .rdall
  | true, true, false => .wrall
  | true, true, true => .wrchk

/-- The row of a command's first enabled phase: skip, then read, then load, else the row without a pulse (R94, R95). -/
def firstPhaseRow (k r l : Bool) (skipRow readRow loadRow noPulseRow : Instr) : Instr :=
  if k then skipRow else if r then readRow else if l then loadRow else noPulseRow

/-- The instruction of a 7-bit command code and its operand: bit 6 the group, bits 5:4 the sub-code, bit 3 ignored, bits 2,
1 and 0 the load, read and skip pulses (R91), the slots as R93 assigns them. Every code has an instruction (R97). -/
def decodeCommand (c : BitVec 7) (v : Word) : Instr :=
  let x := c.getLsbD 3
  let l := c.getLsbD 2
  let r := c.getLsbD 1
  let k := c.getLsbD 0
  let none1 := Instr.noPulse1 (c.extractLsb' 4 2) x v
  let none2 := Instr.noPulse2 (c.extractLsb' 4 2) x v
  match c.getLsbD 6, c.getLsbD 5, c.getLsbD 4 with
  | false, false, false =>
    firstPhaseRow k r l (.skde x l r v) (.rdsa x l false v) (.ldda x false false v) none1
  | false, false, true =>
    firstPhaseRow k r l (.skat x l r v) (.rdsb x l false v) (.clrf x false false v) none1
  | false, true, false =>
    firstPhaseRow k r l (.skdn x l r v) (.noRead2 x l false v) (.ldma x false false v) none1
  | false, true, true =>
    firstPhaseRow k r l (.sker x l r v) (.noRead3 x l false v) (.ldwc x false false v) none1
  | true, false, false =>
    firstPhaseRow k r l (.noSkip0 x l r v) (.rdcy x l false v) (.lsa0 x false false v) none2
  | true, false, true =>
    firstPhaseRow k r l (.skg2 x l r v) (.rdda x l false v) (.lsac x false false v) none2
  | true, true, false =>
    firstPhaseRow k r l (.noSkip2 x l r v) (.rdma x l false v) (.lsao x false false v) none2
  | true, true, true =>
    firstPhaseRow k r l (.noSkip3 x l r v) (.rdwc x l false v) (.lsar x false false v) none2

/-- The unit number in bits 17:15 of a status-A word (R22). -/
def unitField (w : Word) : UnitNo := ⟨(w.extractLsb' 15 3).toNat, (w.extractLsb' 15 3).isLt⟩

/-- The function named by bits 14:12 of a status-A word (R22, R24). -/
def funcField (w : Word) : Func := Func.ofCode (w.extractLsb' 12 3)

/-- The instruction a status-A word names by its FUNC field (R99). -/
def decodeFunction (w : Word) : Instr :=
  let u := unitField w
  let ied := w.getLsbD 11
  let iea := w.getLsbD 10
  let go := w.getLsbD 9
  let flags := w.extractLsb' 0 9
  match funcField w with
  | .idle => .funcIdle u ied iea go flags
  | .read => .funcRead u ied iea go flags
  | .write => .funcWrite u ied iea go flags
  | .recal => .funcRecal u ied iea go flags
  | .seek => .funcSeek u ied iea go flags
  | .rdall => .funcRdall u ied iea go flags
  | .wrall => .funcWrall u ied iea go flags
  | .wrchk => .funcWrchk u ied iea go flags

/-- The instruction of an encoded form. -/
def decodeCode : Code → Instr
  | .command c v => decodeCommand c v
  | .function w => decodeFunction w

/-- Why bytes are no encoded instruction: their number is neither 4 (command) nor 3 (function), or a bit that the image
pads with zero is one (log 10). -/
inductive DecodeError where
  | badLength
  | paddingNotZero
  deriving DecidableEq, Repr

/-- The encoded form in an instruction's byte image, least significant byte first: a command is its 7-bit code in one byte
and its operand in three; a function row is its status-A word in three (log 10). -/
def Code.ofBytes : List Byte → Except DecodeError Code
  | [c, v0, v1, v2] =>
    if c.getLsbD 7 = false ∧ v2.extractLsb' 2 6 = 0#6 then
      .ok (.command (c.extractLsb' 0 7) (v2.extractLsb' 0 2 ++ v1 ++ v0))
    else .error .paddingNotZero
  | [w0, w1, w2] =>
    if w2.extractLsb' 2 6 = 0#6 then .ok (.function (w2.extractLsb' 0 2 ++ w1 ++ w0)) else .error .paddingNotZero
  | _ => .error .badLength

/-- The decoder: any bytes to an instruction or a named rejection. -/
def decode (bytes : List Byte) : Except DecodeError Instr := (Code.ofBytes bytes).map decodeCode

/-- The byte `k` of a number, least significant byte 0. -/
def byteOf (w k : Nat) : Byte := BitVec.ofNat 8 (w >>> (8 * k))

/-- The byte image of a table word: rows of 7 bits (one byte) are commands with an operand of zeros, the wider rows are
status-A words (log 10). -/
def tableImage (nbits w : Nat) : List Byte :=
  if nbits ≤ 8 then [byteOf w 0, byteOf w 1, byteOf w 2, byteOf w 3] else [byteOf w 0, byteOf w 1, byteOf w 2]

/-- The instruction the decoder reads from a word numbered as spec/opcode_table.json numbers it. -/
def decodeTableWord (nbits w : Nat) : Option Instr := (decode (tableImage nbits w)).toOption

/-! The encoder. -/

/-- The 3-bit code of a function (R24). -/
def Func.code : Func → BitVec 3
  | .idle => 0#3
  | .read => 1#3
  | .write => 2#3
  | .recal => 3#3
  | .seek => 4#3
  | .rdall => 5#3
  | .wrall => 6#3
  | .wrchk => 7#3

/-- A command code from its group bit, its sub-code, bit 3 and its load, read and skip pulses (R91). -/
def commandCode (g : BitVec 1) (sub : BitVec 2) (x l r k : Bool) : BitVec 7 :=
  g ++ sub ++ BitVec.ofBool x ++ BitVec.ofBool l ++ BitVec.ofBool r ++ BitVec.ofBool k

/-- A status-A word from its fields (R22). -/
def functionWord (u : UnitNo) (f : Func) (ied iea go : Bool) (flags : BitVec 9) : Word :=
  BitVec.ofNat 3 u.val ++ f.code ++ BitVec.ofBool ied ++ BitVec.ofBool iea ++ BitVec.ofBool go ++ flags

/-- The encoded form of an instruction, from R91 and R93 (commands) and R22 and R24 (functions). -/
def encodeCode : Instr → Code
  | .skde x l r v => .command (commandCode 0 0 x l r true) v
  | .rdsa x l k v => .command (commandCode 0 0 x l true k) v
  | .ldda x r k v => .command (commandCode 0 0 x true r k) v
  | .skat x l r v => .command (commandCode 0 1 x l r true) v
  | .rdsb x l k v => .command (commandCode 0 1 x l true k) v
  | .clrf x r k v => .command (commandCode 0 1 x true r k) v
  | .skdn x l r v => .command (commandCode 0 2 x l r true) v
  | .noRead2 x l k v => .command (commandCode 0 2 x l true k) v
  | .ldma x r k v => .command (commandCode 0 2 x true r k) v
  | .sker x l r v => .command (commandCode 0 3 x l r true) v
  | .noRead3 x l k v => .command (commandCode 0 3 x l true k) v
  | .ldwc x r k v => .command (commandCode 0 3 x true r k) v
  | .noSkip0 x l r v => .command (commandCode 1 0 x l r true) v
  | .rdcy x l k v => .command (commandCode 1 0 x l true k) v
  | .lsa0 x r k v => .command (commandCode 1 0 x true r k) v
  | .skg2 x l r v => .command (commandCode 1 1 x l r true) v
  | .rdda x l k v => .command (commandCode 1 1 x l true k) v
  | .lsac x r k v => .command (commandCode 1 1 x true r k) v
  | .noSkip2 x l r v => .command (commandCode 1 2 x l r true) v
  | .rdma x l k v => .command (commandCode 1 2 x l true k) v
  | .lsao x r k v => .command (commandCode 1 2 x true r k) v
  | .noSkip3 x l r v => .command (commandCode 1 3 x l r true) v
  | .rdwc x l k v => .command (commandCode 1 3 x l true k) v
  | .lsar x r k v => .command (commandCode 1 3 x true r k) v
  | .noPulse1 sub x v => .command (commandCode 0 sub x false false false) v
  | .noPulse2 sub x v => .command (commandCode 1 sub x false false false) v
  | .funcIdle u ied iea go flags => .function (functionWord u .idle ied iea go flags)
  | .funcRead u ied iea go flags => .function (functionWord u .read ied iea go flags)
  | .funcWrite u ied iea go flags => .function (functionWord u .write ied iea go flags)
  | .funcRecal u ied iea go flags => .function (functionWord u .recal ied iea go flags)
  | .funcSeek u ied iea go flags => .function (functionWord u .seek ied iea go flags)
  | .funcRdall u ied iea go flags => .function (functionWord u .rdall ied iea go flags)
  | .funcWrall u ied iea go flags => .function (functionWord u .wrall ied iea go flags)
  | .funcWrchk u ied iea go flags => .function (functionWord u .wrchk ied iea go flags)

/-- The three bytes of a word, least significant first, padded with zeros. -/
def wordBytes (v : Word) : List Byte := [v.extractLsb' 0 8, v.extractLsb' 8 8, (v.extractLsb' 16 2).setWidth 8]

/-- The byte image of an encoded form. -/
def Code.bytes : Code → List Byte
  | .command c v => c.setWidth 8 :: wordBytes v
  | .function w => wordBytes w

/-- The encoder. -/
def encode (i : Instr) : List Byte := (encodeCode i).bytes

end Sys2Proof
end

