-- ==== Sys2Proof/Machine/State.lean ====
section
/-! DEFINITION. The machine's state as plain data (10_state.md R20, R34), the host's calls and the block's answers
(45_host_lifecycle.md R226, R228), the ways a step stops, and the state after reset (70_reset_and_hazards.md R263). -/

namespace Sys2Proof.Machine

/-- Words by address: addresses strictly rising, no entry equal to what an unlisted address reads as (`Memory.wf`, log 8).
System memory and every backing store are held so (R61, R62). -/
abbrev Memory := List (Nat × Word)

/-- A unit's 4-bit function tag: bits 2:0 a function code, bit 3 the second-phase qualifier `2ND` (R34, R36). Octal 014 is
`⟨.seek, true⟩`. -/
structure Tag where
  code : Func
  second : Bool
  deriving DecidableEq, Repr

/-- One unit's record (R34). `ev` is the pending event: `none`, or the ticks left; 0 ticks left is a due event whose
completion has not run yet (R214, log 4). -/
structure Drive where
  cyl : BitVec 8
  func : Tag
  attached : Bool
  wlk : Bool
  store : Memory
  ev : Option Nat
  deriving DecidableEq, Repr

/-- A host effect (60_exceptions.md R243). -/
inductive Effect where
  | notAttached (u : UnitNo)
  | ioError (u : UnitNo)
  | setNXM
  deriving DecidableEq, Repr

/-- An attach image: `len` words, of which `cells` lists those that are not zero; a cell at or past `len` is no word of the
image (R220, log 17). -/
structure Image where
  len : Nat
  cells : List (Nat × Word)
  deriving DecidableEq, Repr

/-- A call of the host (R226, R228). -/
inductive HostCall where
  /-- `handleGroup1/2(cmd, value)`: the group bit and `cmd` as one 7-bit code (R90, R91). -/
  | command (cmd7 : BitVec 7) (value : Word)
  /-- Time advances by one tick (R214). -/
  | tick
  /-- `onUnitEventFired(u)` (R224). -/
  | eventFired (u : UnitNo)
  /-- `reset()` (R260). -/
  | reset
  /-- `attach(u, image)` (R220). -/
  | attach (u : UnitNo) (image : Image)
  /-- `detach(u)` (R221). -/
  | detach (u : UnitNo)
  /-- `setWriteLock(u, b)` (R223). -/
  | setWriteLock (u : UnitNo) (b : Bool)
  /-- `ready()` (R225). -/
  | ready
  /-- The host writes a word of its system memory (R61, R228; log 9). -/
  | poke (addr : Nat) (v : Word)
  /-- The draw of R181 for the transfers that follow (log 6). -/
  | storageFault (fault : Bool)
  deriving DecidableEq, Repr

/-- The block's answer to a host call that has one (R90, R220, R221, R225; log 16). -/
inductive Reply where
  | none
  | command (value : Word) (skip : Bool)
  | attached (ok : Bool)
  | detached (store : Memory)
  | ready (b : Bool)
  deriving DecidableEq, Repr

/-- Why the machine stops with a fault. -/
inductive Fault where
  /-- Raised by the host's own memory write at an address that is not below MEM_SIZE (R61; log 9). Safe: the block itself
  never reaches such an address (R179). -/
  | noSuchMemory
  deriving DecidableEq, Repr

/-- Why the machine gives no meaning to a step. What the spec itself refuses (R97, R170, R224) is no such stop: it is a next
state with the refusal mark (`State.refused`). -/
inductive Refusal where
  /-- Raised by `exec` for an instruction without a meaning; safe. -/
  | notModelled (mnemonic : String)
  /-- Raised by an attach of more than CAP words, which the host must not give and for which the spec has no move (R228,
  U13); safe. -/
  | imageTooLong
  deriving DecidableEq, Repr

/-- The whole state. The first eight fields and `mem` are the spec's (R20, R61), and so is the refusal mark (U1, R275);
`reply` and `effects` are its outputs (R41, R243); `cfg`, `host`, `ioFault` and `draws` are the model's own (log 1, 3, 6,
7). -/
structure State where
  /-- Status A (R22). -/
  sta : Word
  /-- Status B (R25). -/
  stb : Word
  /-- Disk address (R29). -/
  da : Word
  /-- Memory address (R30). -/
  ma : Word
  /-- Word count, a two's-complement negative (R31). -/
  wc : Word
  /-- Controller busy (R32). -/
  busy : Bool
  /-- The interrupt level the last recompute computed (R33, R118). -/
  irq : Bool
  /-- The eight units (R34). -/
  units : Vector Drive 8
  /-- System memory (R61). -/
  mem : Memory
  /-- The answer to the last host call that has one. -/
  reply : Reply
  /-- The host effects raised so far, oldest first (R243, R275). -/
  effects : List Effect
  /-- The refusal mark: some step was refused (U1, R275; log 15). -/
  refused : Bool
  /-- The parameters (R5); no step changes them. -/
  cfg : Config
  /-- The host's calls still to come, the next one first. -/
  host : List HostCall
  /-- The storage-fault draw of R181: true is `io_error`. -/
  ioFault : Bool
  /-- How many free values have been drawn. -/
  draws : Nat
  deriving DecidableEq, Repr

/-- The outcome of a step. -/
abbrev Result := Host.Outcome State Fault Refusal

/-- A unit as a controller is created with it: idle, cylinder 0, detached, unlocked, no event, an empty store (R263). -/
def Drive.created : Drive where
  cyl := 0
  func := ⟨.idle, false⟩
  attached := false
  wlk := false
  store := []
  ev := .none

/-- The creation state, which is the state after `reset()` with every unit detached and unlocked (R263, D46): status A shows
ERR and status B shows SUFU and SUNR of the detached unit 0. -/
def State.reset : State where
  sta := 0o0000001#18
  stb := 0o0001001#18
  da := 0
  ma := 0
  wc := 0
  busy := false
  irq := false
  units := Vector.replicate 8 Drive.created
  mem := []
  reply := .none
  effects := []
  refused := false
  cfg := Config.standard
  host := []
  ioFault := false
  draws := 0

end Sys2Proof.Machine

namespace Sys2Proof

/-- FREE VALUE: a group-2 skip condition that no data of the model describes, any function of the state (R5, R152, U2;
log 2). -/
opaque Config.openSkipCond : Machine.State → Bool

end Sys2Proof
end

