-- ==== Sys2Proof/Machine/Ops.lean ====
section
/-! DEFINITION. The named operations over memory, units, events and effects (00_scope.md R8, 20_memory.md R61, R62,
44_timing.md R214). The block takes no exception and returns from none (60_exceptions.md R240, R251): its one output to the
host's control flow besides the skip signal is the interrupt level, which `driveIrq` (Flags.lean) writes. -/

namespace Sys2Proof.Machine

/-! ### Memory -/

/-- What a word that nothing has written reads as: 0 in a store (R62); in system memory by choice (log 8). -/
def unwritten : Word := 0

/-- The canonical form: addresses strictly rising, no listed word equal to an unlisted one. -/
abbrev Memory.wf (m : Memory) : Prop := m.Pairwise (fun a b => a.1 < b.1) ∧ ∀ c ∈ m, c.2 ≠ unwritten

/-- Every listed address is below `n`. -/
abbrev Memory.below (m : Memory) (n : Nat) : Prop := ∀ c ∈ m, c.1 < n

/-- `MemRead(a, 1)` and `StoreRead(u, a)` (R8, R61, R62). -/
def readWord : Memory → Nat → Word
  | [], _ => unwritten
  | (b, w) :: m, a => if a = b then w else if a < b then unwritten else readWord m a

/-- `MemWrite(a, 1, v)` and `StoreWrite(u, a, v)` (R8, R61, R62), keeping the canonical form. -/
def writeWord : Memory → Nat → Word → Memory
  | [], a, v => if v = unwritten then [] else [(a, v)]
  | (b, w) :: m, a, v =>
    if a < b then (if v = unwritten then (b, w) :: m else (a, v) :: (b, w) :: m)
    else if a = b then (if v = unwritten then m else (a, v) :: m)
    else (b, w) :: writeWord m a v

/-- The `n` words from address `a` up. -/
def readWords (m : Memory) (a : Nat) : Nat → List Word
  | 0 => []
  | n + 1 => readWord m a :: readWords m (a + 1) n

/-- Words written from address `a` up, in increasing order (R75). -/
def writeWords (m : Memory) (a : Nat) : List Word → Memory
  | [] => m
  | v :: vs => writeWords (writeWord m a v) (a + 1) vs

/-! ### Units, events and effects -/

/-- Unit `u`'s record. -/
def State.unit (s : State) (u : UnitNo) : Drive := s.units[u]

/-- The state with unit `u`'s record replaced. -/
def State.setUnit (s : State) (u : UnitNo) (d : Drive) : State := { s with units := s.units.set u d }

/-- A change of every unit's record. -/
def State.mapUnits (s : State) (f : Drive → Drive) : Vector Drive 8 :=
  #v[f s.units[0], f s.units[1], f s.units[2], f s.units[3], f s.units[4], f s.units[5], f s.units[6], f s.units[7]]

/-- All units, lowest number first. -/
def allUnits : List UnitNo := [0, 1, 2, 3, 4, 5, 6, 7]

/-- `pending(u)` (R38, R214). -/
def State.pending (s : State) (u : UnitNo) : Bool := (s.unit u).ev.isSome

/-- An event that has reached 0 ticks is due (R214). -/
def State.due (s : State) (u : UnitNo) : Bool := (s.unit u).ev == some 0

/-- The units whose completion must run before the next tick or command (R214). -/
def State.dueUnits (s : State) : List UnitNo := allUnits.filter s.due

/-- `cancel(u)`, and what the scheduler does to an event it fires (R214). -/
def State.unschedule (s : State) (u : UnitNo) : State := s.setUnit u { s.unit u with ev := none }

/-- `raise <Effect>(info)` (R8, R243): the step goes on. -/
def State.raise (s : State) (e : Effect) : State := { s with effects := s.effects ++ [e] }

/-- The answer of a host call. -/
def State.answer (s : State) (r : Reply) : State := { s with reply := r }

/-- A refused step: the mark is set and nothing else happens (R97, U1; log 15). -/
def State.refuse (s : State) : State := { s with refused := true }

/-! ### Status registers -/

/-- `sta <- sta | m`. -/
def State.orSta (s : State) (m : Word) : State := { s with sta := s.sta ||| m }

/-- `sta <- sta & ~m`. -/
def State.clearSta (s : State) (m : Word) : State := { s with sta := s.sta &&& ~~~m }

/-- `stb <- stb | m`. -/
def State.orStb (s : State) (m : Word) : State := { s with stb := s.stb ||| m }

/-- `stb <- stb & ~m`. -/
def State.clearStb (s : State) (m : Word) : State := { s with stb := s.stb &&& ~~~m }

/-! ### Free values -/

/-- The next `n` unspecified words of a storage fault (R181, log 7). -/
def freeWords (k : Nat) : Nat → List Word
  | 0 => []
  | n + 1 => Config.freeWord k :: freeWords (k + 1) n

/-- `n` free values have been drawn. -/
def State.drawn (s : State) (n : Nat) : State := { s with draws := s.draws + n }

end Sys2Proof.Machine
end

