-- ==== Sys2Proof/Machine/Flags.lean ====
section
/-! DEFINITION. The status registers' masks (10_state.md R22, R23, R25, R27, R28) and the status model: every flag the block
derives, and the interrupt line (40_status_model.md R110 to R118). -/

namespace Sys2Proof.Machine

/-! ### Status A (R22) -/

def IED : Word := 0o0004000#18
def IEA : Word := 0o0002000#18
def GO : Word := 0o0001000#18
def WLE : Word := 0o0000400#18
def NXC : Word := 0o0000200#18
def NXF : Word := 0o0000100#18
def NXS : Word := 0o0000040#18
def HNF : Word := 0o0000020#18
def SUWP : Word := 0o0000010#18
def SUSI : Word := 0o0000004#18
def DON : Word := 0o0000002#18
def ERR : Word := 0o0000001#18

/-- The read/write field of status A: UNIT, FUNC, IED, IEA, GO (R23). -/
def RW : Word := 0o0777000#18

/-- The dynamic flags of status A (R28). -/
def DYN_A : Word := SUWP ||| SUSI

/-- The error subset of status A (R27). -/
def EFLAGS_A : Word := WLE ||| NXC ||| NXF ||| NXS ||| HNF ||| SUSI

/-! ### Status B (R25) -/

/-- The attention bits of all units (R25). -/
def ATTN_ALL : Word := 0o0776000#18
def SUFU : Word := 0o0001000#18
def PGE : Word := 0o0000400#18
def EOP : Word := 0o0000200#18
def TME : Word := 0o0000100#18
def FME : Word := 0o0000040#18
def WCE : Word := 0o0000020#18
def WPE : Word := 0o0000010#18
def LON : Word := 0o0000004#18
def SUSU : Word := 0o0000002#18
def SUNR : Word := 0o0000001#18

/-- `ATTN(u)`, bit 17 − u (R25). -/
def ATTN (u : UnitNo) : Word := 0o0400000#18 >>> u.val

/-- The dynamic flags of status B (R28). -/
def DYN_B : Word := SUFU ||| SUSU ||| SUNR

/-- The error subset of status B (R27). -/
def EFLAGS_B : Word := SUFU ||| PGE ||| EOP ||| TME ||| FME ||| WCE ||| WPE ||| LON

/-- The sticky errors of status B, which a go and CLRF clear (R135, R165). -/
def STICKY_B : Word := PGE ||| EOP ||| TME ||| FME ||| WCE ||| WPE ||| LON

/-- `(w & m) ≠ 0`. -/
def hasAny (w m : Word) : Bool := w &&& m != 0

/-- `sel`, the selected unit (R9). -/
def State.sel (s : State) : UnitNo := unitField s.sta

/-! ### The status model -/

/-- Step 1: status A keeps its sticky bits and its read/write field (R111). -/
def mergeA (pa : Word) (s : State) : State := { s with sta := (s.sta &&& ~~~(DYN_A ||| ERR)) ||| pa }

/-- Step 2: status B keeps its sticky bits (R112). -/
def mergeB (pb : Word) (s : State) : State := { s with stb := (s.stb &&& ~~~DYN_B) ||| pb }

/-- Step 3: write protection of the selected unit (R113). -/
def reportWriteLock (s : State) : State := if (s.unit s.sel).wlk then s.orSta SUWP else s

/-- A unit seeks while an event is pending and its code, `2ND` stripped, is SEEK or RECAL (R115). -/
def State.seeking (s : State) (u : UnitNo) : Bool :=
  s.pending u && ((s.unit u).func.code == .seek || (s.unit u).func.code == .recal)

/-- Cylinders per drive (R40). -/
def CYLINDERS : Nat := 203

/-- Steps 4 to 6, the first condition that holds: not attached, seeking, seek incomplete (R114, R115, R116, R247). -/
def reportUnit (s : State) : State :=
  if (s.unit s.sel).attached = false then s.orStb (SUFU ||| SUNR)
  else if s.seeking s.sel then s.orStb (SUSU ||| SUNR)
  else if CYLINDERS ≤ (s.unit s.sel).cyl.toNat then s.orSta SUSI
  else s

/-- Step 7: the error summary (R117). -/
def summariseErrors (s : State) : State :=
  if hasAny s.sta EFLAGS_A || hasAny s.stb EFLAGS_B then s.orSta ERR else s

/-- The interrupt level of two status words (R118). -/
def irqLevel (sta stb : Word) : Bool :=
  (hasAny sta (DON ||| ERR) && hasAny sta IED) || (hasAny stb ATTN_ALL && hasAny sta IEA)

/-- Step 8: the interrupt line (R118). -/
def driveIrq (s : State) : State := { s with irq := irqLevel s.sta s.stb }

/-- `recompute(pa, pb)` (R110): the eight steps in order. -/
def recompute (pa pb : Word) (s : State) : State :=
  driveIrq (summariseErrors (reportUnit (reportWriteLock (mergeB pb (mergeA pa s)))))

end Sys2Proof.Machine
end

