-- ==== Sys2Proof/Machine/Geometry.lean ====
section
/-! DEFINITION. The disk-geometry codec (10_state.md R29, R40; 20_memory.md R63 to R68). -/

namespace Sys2Proof.Machine

def WORDS_PER_SECTOR : Nat := 256
def SECTORS : Nat := 10
def SURFACES : Nat := 20

/-- Words per drive (R40). -/
def CAP : Nat := CYLINDERS * SURFACES * SECTORS * WORDS_PER_SECTOR

/-- `SECT(x)`, `SURF(x)` and `CYL(x)`: bits 3:0, 9:5 and 17:10; bit 4 is ignored (R63, R64). -/
def SECT (x : Word) : Nat := (x.extractLsb' 0 4).toNat
def SURF (x : Word) : Nat := (x.extractLsb' 5 5).toNat
def CYL (x : Word) : Nat := (x.extractLsb' 10 8).toNat

/-- A cylinder, a surface and a sector. -/
structure DiskAddr where
  cyl : Nat
  surf : Nat
  sect : Nat
  deriving DecidableEq, Repr

/-- `decode(x)` (R63). -/
def decodeDA (x : Word) : DiskAddr := ⟨CYL x, SURF x, SECT x⟩

/-- The flags of the components of `x` that are out of range (R65). -/
def badGeometry (x : Word) : Word :=
  (if SECTORS ≤ SECT x then NXS else 0) ||| (if SURFACES ≤ SURF x then NXF else 0) |||
    (if CYLINDERS ≤ CYL x then NXC else 0)

/-- `toLinear` (R66). -/
def toLinear (d : DiskAddr) : Nat := ((d.cyl * SURFACES + d.surf) * SECTORS + d.sect) * WORDS_PER_SECTOR

/-- `sectorIndex(x) × 256`: the store offset of a packed disk address (R66). -/
def storeOffset (x : Word) : Nat := toLinear (decodeDA x)

/-- `fromLinear` (R67): up to the next sector boundary, the cylinder clamped to the last one. -/
def fromLinear (w : Nat) : DiskAddr :=
  let s := (w + (WORDS_PER_SECTOR - 1)) / WORDS_PER_SECTOR
  let t := s % (SURFACES * SECTORS)
  ⟨min (s / (SURFACES * SECTORS)) (CYLINDERS - 1), t / SECTORS, t % SECTORS⟩

/-- `encodeDA` (R68). -/
def encodeDA (d : DiskAddr) : Word := BitVec.ofNat 18 ((d.cyl <<< 10) ||| (d.surf <<< 5) ||| d.sect)

end Sys2Proof.Machine
end

