-- ==== Sys2Proof/Machine/Timing.lean ====
section
/-! DEFINITION. The delay calculator (44_timing.md R210, R211, R212) and time advance (R214). -/

namespace Sys2Proof.Machine

/-- `|a − b|`. -/
def absDiff (a b : Nat) : Nat := (a - b) + (b - a)

/-- The functions that move data (R24). -/
def Func.isData : Func → Bool
  | .idle | .recal | .seek => false
  | .read | .write | .rdall | .wrall | .wrchk => true

/-- `Delay(u, f, da)`: what a go schedules (R210). -/
def goDelay (s : State) (u : UnitNo) (f : Func) : Nat :=
  if (s.unit u).attached && Func.isData f then
    max s.cfg.minDispatch (s.cfg.seekTicksPerCyl * absDiff (CYL s.da) (s.unit u).cyl.toNat + s.cfg.rotTicks)
  else s.cfg.minDispatch

/-- `SeekDelay(c, c0)`: what seek phase 1 schedules (R211). -/
def seekDelay (cfg : Config) (c c0 : Nat) : Nat := max cfg.minDispatch (cfg.seekTicksPerCyl * absDiff c c0)

/-- One tick passes: every pending event has one tick less (R214). -/
def advanceTick (s : State) : State :=
  { s with units := s.mapUnits (fun d => { d with ev := d.ev.map (· - 1) }) }

end Sys2Proof.Machine
end

