-- ==== Sys2Proof/Machine/Operands.lean ====
section
/-! DEFINITION. The command's operand forms and its three phases (30_encoding.md R90, R92, R94; 41_group1_commands.md R130,
R131, R143; 42_group2_commands.md R150, R151). -/

namespace Sys2Proof.Machine

/-- The three pulse bits of a command (R91). -/
structure Pulses where
  skip : Bool
  read : Bool
  load : Bool
  deriving DecidableEq, Repr

/-- What a read phase returns (R92). -/
def mergeRead (s : State) (value reg : Word) : Word :=
  match s.cfg.readMerge with
  | .or => value ||| reg
  | .replace => reg

/-- The busy gate of every load phase: while busy it only sets PGE (R131). -/
def busyGate (load : State → State) (s : State) : State := if s.busy then s.orStb PGE else load s

/-- The end of every command: the recompute, and the answer `(value', skip)` (R143, R151). -/
def endCommand (value : Word) (skip : Bool) (s : State) : State := (recompute 0 0 s).answer (.command value skip)

/-- A command: its enabled phases in the order skip, read, load, all on the same operand, then its end (R94, R130, R150). -/
def runPhases (p : Pulses) (test : State → Bool) (read : Word → State → Word) (load : Word → State → State)
    (v : Word) (s : State) : State :=
  endCommand (if p.read then read v s else v) (p.skip && test s) (if p.load then busyGate (load v) s else s)

/-- A skip phase without action (R96). -/
def noSkipTest (_ : State) : Bool := false

/-- A read phase without action (R96). -/
def noRead (v : Word) (_ : State) : Word := v

end Sys2Proof.Machine
end

