-- ==== Sys2Proof/Machine/Group1.lean ====
section
/-! DEFINITION. The group-1 commands (41_group1_commands.md R130 to R143). -/

namespace Sys2Proof.Machine

/-! ### The actions of the slots -/

/-- SKDE: DON or ERR (R133). -/
def skdeTest (s : State) : Bool := hasAny s.sta DON || hasAny s.sta ERR

/-- RDSA (R132). -/
def rdsaRead (v : Word) (s : State) : Word := mergeRead s v s.sta

/-- LDDA: the address is stored whole and its bad components are flagged (R134). -/
def lddaLoad (v : Word) (s : State) : State :=
  ({ s with da := v }.clearSta (NXC ||| NXF ||| NXS)).orSta (badGeometry v)

/-- SKAT: any attention (R137). -/
def skatTest (s : State) : Bool := hasAny s.stb ATTN_ALL

/-- RDSB (R136). -/
def rdsbRead (v : Word) (s : State) : Word := mergeRead s v s.stb

/-- CLRF: DON and the sticky errors of both registers (R135). -/
def clrfLoad (_ : Word) (s : State) : State :=
  (s.clearSta (DON ||| HNF ||| WLE ||| NXC ||| NXF ||| NXS)).clearStb STICKY_B

/-- SKDN: DON (R139). -/
def skdnTest (s : State) : Bool := hasAny s.sta DON

/-- LDMA (R138). -/
def ldmaLoad (v : Word) (s : State) : State := { s with ma := v }

/-- SKER: ERR (R141). -/
def skerTest (s : State) : Bool := hasAny s.sta ERR

/-- LDWC (R140). -/
def ldwcLoad (v : Word) (s : State) : State := { s with wc := v }

/-! ### The sub-codes: which action stands in which phase (R93) -/

def group1Sub0 (p : Pulses) (v : Word) (s : State) : Result := .next (runPhases p skdeTest rdsaRead lddaLoad v s)
def group1Sub1 (p : Pulses) (v : Word) (s : State) : Result := .next (runPhases p skatTest rdsbRead clrfLoad v s)
def group1Sub2 (p : Pulses) (v : Word) (s : State) : Result := .next (runPhases p skdnTest noRead ldmaLoad v s)
def group1Sub3 (p : Pulses) (v : Word) (s : State) : Result := .next (runPhases p skerTest noRead ldwcLoad v s)

/-! ### The instructions. `_x` is the ignored bit; the other Booleans are the command's other pulses (R94). -/

/-- SKDE (R133). -/
def execSkde (_x l r : Bool) (v : Word) (s : State) : Result := group1Sub0 ⟨true, r, l⟩ v s

/-- RDSA (R132). -/
def execRdsa (_x l k : Bool) (v : Word) (s : State) : Result := group1Sub0 ⟨k, true, l⟩ v s

/-- LDDA (R134). -/
def execLdda (_x r k : Bool) (v : Word) (s : State) : Result := group1Sub0 ⟨k, r, true⟩ v s

/-- SKAT (R137). -/
def execSkat (_x l r : Bool) (v : Word) (s : State) : Result := group1Sub1 ⟨true, r, l⟩ v s

/-- RDSB (R136). -/
def execRdsb (_x l k : Bool) (v : Word) (s : State) : Result := group1Sub1 ⟨k, true, l⟩ v s

/-- CLRF (R135). -/
def execClrf (_x r k : Bool) (v : Word) (s : State) : Result := group1Sub1 ⟨k, r, true⟩ v s

/-- SKDN (R139). -/
def execSkdn (_x l r : Bool) (v : Word) (s : State) : Result := group1Sub2 ⟨true, r, l⟩ v s

/-- Group 1, S = 2, read phase: no action of its own (R142). -/
def execNoRead2 (_x l k : Bool) (v : Word) (s : State) : Result := group1Sub2 ⟨k, true, l⟩ v s

/-- LDMA (R138). -/
def execLdma (_x r k : Bool) (v : Word) (s : State) : Result := group1Sub2 ⟨k, r, true⟩ v s

/-- SKER (R141). -/
def execSker (_x l r : Bool) (v : Word) (s : State) : Result := group1Sub3 ⟨true, r, l⟩ v s

/-- Group 1, S = 3, read phase: no action of its own (R142). -/
def execNoRead3 (_x l k : Bool) (v : Word) (s : State) : Result := group1Sub3 ⟨k, true, l⟩ v s

/-- LDWC (R140). -/
def execLdwc (_x r k : Bool) (v : Word) (s : State) : Result := group1Sub3 ⟨k, r, true⟩ v s

/-- P = 0 in group 1: only the end of the command (R95). -/
def execNoPulse1 (_sub : BitVec 2) (_x : Bool) (v : Word) (s : State) : Result := .next (endCommand v false s)

end Sys2Proof.Machine
end

