-- ==== Sys2Proof/Machine/Group2.lean ====
section
/-! DEFINITION. The group-2 commands and the go trigger (42_group2_commands.md R150 to R166). -/

namespace Sys2Proof.Machine

/-! ### The go trigger -/

/-- A go starts the selected unit's function: it captures the function, sets busy, clears DON, the sticky errors and the
unit's attention, and schedules the first completion (R165, R166). -/
def startUnit (u : UnitNo) (f : Func) (s : State) : State :=
  let d := goDelay s u f
  let s := s.setUnit u { s.unit u with func := ⟨f, false⟩, ev := some d }
  let s := { s with busy := true }
  let s := (s.clearSta (DON ||| HNF ||| WLE)).clearStb (STICKY_B ||| ATTN u)
  if s.cfg.goAutoclear then s.clearSta GO else s

/-- `go_check()`: GO is a level, and a unit with a pending event ignores it (R165). -/
def goCheck (s : State) : State :=
  if hasAny s.sta GO && !s.pending s.sel then startUnit s.sel (funcField s.sta) s else s

/-! ### The actions of the slots -/

/-- RDCY: the selected unit's cylinder, right-justified (R155). -/
def rdcyRead (v : Word) (s : State) : Word := mergeRead s v ((s.unit s.sel).cyl.setWidth 18)

/-- LSA0 with `G2_S0_LOAD = clear_field`: the whole read/write field becomes 0 (R161). -/
def lsa0Load (_ : Word) (s : State) : State := goCheck (s.clearSta RW)

/-- SKG2: the parameter's condition (R152). -/
def skg2Test (s : State) : Bool :=
  match s.cfg.g2SkipCond with
  | .always => true
  | .flags inA inB => hasAny s.sta inA || hasAny s.stb inB
  | .uninterpreted => Config.openSkipCond s

/-- RDDA (R156). -/
def rddaRead (v : Word) (s : State) : Word := mergeRead s v s.da

/-- LSAC: clears bits of the read/write field, where the operand is 0 or where it is 1 (R162). -/
def lsacLoad (v : Word) (s : State) : State :=
  match s.cfg.clearLoadMode with
  | .andMask => goCheck { s with sta := s.sta &&& (v ||| ~~~RW) }
  | .bitClear => goCheck { s with sta := s.sta &&& ~~~(v &&& RW) }

/-- RDMA (R157). -/
def rdmaRead (v : Word) (s : State) : Word := mergeRead s v s.ma

/-- LSAO: sets bits of the read/write field (R163). -/
def lsaoLoad (v : Word) (s : State) : State := goCheck { s with sta := s.sta ||| (v &&& RW) }

/-- RDWC (R158). -/
def rdwcRead (v : Word) (s : State) : Word := mergeRead s v s.wc

/-- LSAR: replaces the read/write field (R164). -/
def lsarLoad (v : Word) (s : State) : State := goCheck { s with sta := (s.sta &&& ~~~RW) ||| (v &&& RW) }

/-! ### The sub-codes: which action stands in which phase (R93) -/

/-- Sub-code 0: with `G2_S0_LOAD = refuse` a command with the load pulse is refused as a whole, while busy too (R97, R150,
R161; log 14, 22). -/
def group2Sub0 (p : Pulses) (v : Word) (s : State) : Result :=
  if p.load = true ∧ s.cfg.g2S0Load = .refuse then .next s.refuse
  else .next (runPhases p noSkipTest rdcyRead lsa0Load v s)

def group2Sub1 (p : Pulses) (v : Word) (s : State) : Result := .next (runPhases p skg2Test rddaRead lsacLoad v s)
def group2Sub2 (p : Pulses) (v : Word) (s : State) : Result := .next (runPhases p noSkipTest rdmaRead lsaoLoad v s)
def group2Sub3 (p : Pulses) (v : Word) (s : State) : Result := .next (runPhases p noSkipTest rdwcRead lsarLoad v s)

/-! ### The instructions. `_x` is the ignored bit; the other Booleans are the command's other pulses (R94). -/

/-- Group 2, S = 0, skip phase: no action of its own (R153). -/
def execNoSkip0 (_x l r : Bool) (v : Word) (s : State) : Result := group2Sub0 ⟨true, r, l⟩ v s

/-- RDCY (R155). -/
def execRdcy (_x l k : Bool) (v : Word) (s : State) : Result := group2Sub0 ⟨k, true, l⟩ v s

/-- LSA0 (R161). -/
def execLsa0 (_x r k : Bool) (v : Word) (s : State) : Result := group2Sub0 ⟨k, r, true⟩ v s

/-- SKG2 (R152). -/
def execSkg2 (_x l r : Bool) (v : Word) (s : State) : Result := group2Sub1 ⟨true, r, l⟩ v s

/-- RDDA (R156). -/
def execRdda (_x l k : Bool) (v : Word) (s : State) : Result := group2Sub1 ⟨k, true, l⟩ v s

/-- LSAC (R162). -/
def execLsac (_x r k : Bool) (v : Word) (s : State) : Result := group2Sub1 ⟨k, r, true⟩ v s

/-- Group 2, S = 2, skip phase: no action of its own (R153). -/
def execNoSkip2 (_x l r : Bool) (v : Word) (s : State) : Result := group2Sub2 ⟨true, r, l⟩ v s

/-- RDMA (R157). -/
def execRdma (_x l k : Bool) (v : Word) (s : State) : Result := group2Sub2 ⟨k, true, l⟩ v s

/-- LSAO (R163). -/
def execLsao (_x r k : Bool) (v : Word) (s : State) : Result := group2Sub2 ⟨k, r, true⟩ v s

/-- Group 2, S = 3, skip phase: no action of its own (R153). -/
def execNoSkip3 (_x l r : Bool) (v : Word) (s : State) : Result := group2Sub3 ⟨true, r, l⟩ v s

/-- RDWC (R158). -/
def execRdwc (_x l k : Bool) (v : Word) (s : State) : Result := group2Sub3 ⟨k, true, l⟩ v s

/-- LSAR (R164). -/
def execLsar (_x r k : Bool) (v : Word) (s : State) : Result := group2Sub3 ⟨k, r, true⟩ v s

/-- P = 0 in group 2: only the end of the command (R95). -/
def execNoPulse2 (_sub : BitVec 2) (_x : Bool) (v : Word) (s : State) : Result := .next (endCommand v false s)

end Sys2Proof.Machine
end

