-- ==== Sys2Proof/Machine/Units.lean ====
section
/-! DEFINITION. The completion steps of a unit: the function-code rows of the opcode table (43_unit_state_machine.md R170 to
R189). -/

namespace Sys2Proof.Machine

/-- The completion call of unit `u`: a due event is taken off the schedule before the step runs (R38, R214); a call for an
event that is not due is refused (R224; log 13). -/
def fireEvent (u : UnitNo) (s : State) (complete : State → Result) : Result :=
  if s.due u then complete (s.unschedule u) else .next s.refuse

/-- A tag with the second-phase bit and a code other than SEEK is refused, its event already off the schedule (R99, R170;
log 13). -/
def firstPhase (u : UnitNo) (s : State) (complete : State → Result) : Result :=
  if (s.unit u).func.second then .next s.refuse else complete s

/-! ### Idle and positioning -/

/-- The idle completion (R171). -/
def idleComplete (s : State) : State := { s with busy := false }

/-- Seek and recalibrate, phase 1, to cylinder `c`: the settle delay is taken from the old cylinder (R172). -/
def seekPhase1 (u : UnitNo) (c : BitVec 8) (s : State) : State :=
  recompute 0 0
    ({ s with busy := false }.setUnit u
      { s.unit u with
        cyl := c
        func := ⟨.seek, true⟩
        ev := some (seekDelay s.cfg c.toNat (s.unit u).cyl.toNat) })

/-- Seek phase 2: attention (R174). -/
def seekPhase2 (u : UnitNo) (s : State) : State := recompute 0 (ATTN u) s

/-- The cylinder field of a disk address as a cylinder register's value (R172). -/
def cylField (x : Word) : BitVec 8 := x.extractLsb' 10 8

/-! ### Data functions -/

/-- What a data function does with the words (R182, R183, R184, R185). -/
inductive Move where
  | read
  | write
  | check
  | nothing
  deriving DecidableEq, Repr

/-- The data path of read-all and write-all (R185). -/
def allMove (s : State) (plain : Move) : Move :=
  match s.cfg.allMode with
  | .asPlain => plain
  | .noData => .nothing

/-- The words requested, `2^18 − wc` (R31, R178). -/
def requested (s : State) : Nat := 2 ^ 18 - s.wc.toNat

/-- The memory clamp (R179): the count that ends at MEM_SIZE, and whether it was exceeded. -/
def overrunsMemory (s : State) (n : Nat) : Bool := s.cfg.memSize < s.ma.toNat + n
def memoryClamp (s : State) (n : Nat) : Nat := if overrunsMemory s n then s.cfg.memSize - s.ma.toNat else n

/-- The disk clamp (R180): the count that ends at CAP, and whether it was exceeded. -/
def overrunsDisk (s : State) (n : Nat) : Bool := CAP < storeOffset s.da + n
def diskClamp (s : State) (n : Nat) : Nat := if overrunsDisk s n then CAP - storeOffset s.da else n

/-- The count actually transferred (R178 to R180). -/
def transferCount (s : State) : Nat := diskClamp s (memoryClamp s (requested s))

/-- The zero words that fill the last sector of a write (R183). -/
def padCount (n : Nat) : Nat := if n % WORDS_PER_SECTOR = 0 then 0 else WORDS_PER_SECTOR - n % WORDS_PER_SECTOR

/-- READ (R182): store words into memory; with a storage fault unspecified words (R181). -/
def moveRead (u : UnitNo) (n : Nat) (s : State) : State :=
  if s.ioFault then { s with mem := writeWords s.mem s.ma.toNat (freeWords s.draws n) }.drawn n
  else { s with mem := writeWords s.mem s.ma.toNat (readWords (s.unit u).store (storeOffset s.da) n) }

/-- WRITE (R183): memory words into the store, then zeros to the end of the last sector; with a storage fault unspecified
words (R181). -/
def moveWrite (u : UnitNo) (n : Nat) (s : State) : State :=
  let put (ws : List Word) : State :=
    s.setUnit u { s.unit u with store := writeWords (s.unit u).store (storeOffset s.da) ws }
  if s.ioFault then (put (freeWords s.draws (n + padCount n))).drawn (n + padCount n)
  else put (readWords s.mem s.ma.toNat n ++ List.replicate (padCount n) 0)

/-- WRCHK (R184): any word that differs sets WCE; with a storage fault WCE may be set or not (R181). -/
def moveCheck (u : UnitNo) (n : Nat) (s : State) : State :=
  if s.ioFault then (if Config.freeBit s.draws then s.orStb WCE else s).drawn 1
  else if readWords (s.unit u).store (storeOffset s.da) n = readWords s.mem s.ma.toNat n then s
  else s.orStb WCE

def moveWords (m : Move) (u : UnitNo) (n : Nat) (s : State) : State :=
  match m with
  | .read => moveRead u n s
  | .write => moveWrite u n s
  | .check => moveCheck u n s
  | .nothing => s

/-- The clamps' reports: `SetNXM` and EOP (R179, R180). -/
def reportClamps (s : State) : State :=
  let t := if overrunsMemory s (requested s) then s.raise .setNXM else s
  if overrunsDisk s (memoryClamp s (requested s)) then t.orStb EOP else t

/-- The registers after `n` words (R186). -/
def advanceRegisters (n : Nat) (s : State) : State :=
  { s with
    wc := s.wc + BitVec.ofNat 18 n
    ma := s.ma + BitVec.ofNat 18 n
    da := encodeDA (fromLinear (storeOffset s.da + n)) }

/-- Every ending of a data function: busy clears and the recompute takes the pending bits (R175, R176, R177, R187). -/
def endData (pa pb : Word) (s : State) : State := recompute pa pb { s with busy := false }

/-- The transfer of a data function whose checks passed, and its completion (R178 to R188). -/
def transfer (m : Move) (u : UnitNo) (s : State) : State :=
  let n := transferCount s
  let t := endData DON 0 (advanceRegisters n (moveWords m u n (reportClamps s)))
  if s.ioFault then t.raise (.ioError u) else t

/-- A data function: the checks in order, then the transfer (R175, R176, R177, R248). -/
def dataFunction (m : Move) (u : UnitNo) (s : State) : State :=
  if (s.unit u).attached = false then (endData DON SUFU s).raise (.notAttached u)
  else if s.cfg.writeLockEnforced ∧ m = .write ∧ (s.unit u).wlk then endData (DON ||| WLE) 0 s
  else if badGeometry s.da ≠ 0 then endData DON SUFU (s.orSta (badGeometry s.da))
  else transfer m u s

/-! ### The instructions: the completion of unit `u` with each function code. The other fields of the status-A word do not
enter the step (R99, R170). -/

/-- FUNC IDLE (R171). -/
def execFuncIdle (u : UnitNo) (_ied _iea _go : Bool) (_flags : BitVec 9) (s : State) : Result :=
  fireEvent u s fun s => firstPhase u s fun s => .next (idleComplete s)

/-- FUNC READ (R182). -/
def execFuncRead (u : UnitNo) (_ied _iea _go : Bool) (_flags : BitVec 9) (s : State) : Result :=
  fireEvent u s fun s => firstPhase u s fun s => .next (dataFunction .read u s)

/-- FUNC WRITE (R183). -/
def execFuncWrite (u : UnitNo) (_ied _iea _go : Bool) (_flags : BitVec 9) (s : State) : Result :=
  fireEvent u s fun s => firstPhase u s fun s => .next (dataFunction .write u s)

/-- FUNC RECAL, phase 1 to cylinder 0 (R172). -/
def execFuncRecal (u : UnitNo) (_ied _iea _go : Bool) (_flags : BitVec 9) (s : State) : Result :=
  fireEvent u s fun s => firstPhase u s fun s => .next (seekPhase1 u 0 s)

/-- FUNC SEEK: phase 1 to the staged cylinder (R172), or, with the second-phase bit, phase 2 (R174). -/
def execFuncSeek (u : UnitNo) (_ied _iea _go : Bool) (_flags : BitVec 9) (s : State) : Result :=
  fireEvent u s fun s =>
    if (s.unit u).func.second then .next (seekPhase2 u s) else .next (seekPhase1 u (cylField s.da) s)

/-- FUNC RDALL (R185). -/
def execFuncRdall (u : UnitNo) (_ied _iea _go : Bool) (_flags : BitVec 9) (s : State) : Result :=
  fireEvent u s fun s => firstPhase u s fun s => .next (dataFunction (allMove s .read) u s)

/-- FUNC WRALL (R185). -/
def execFuncWrall (u : UnitNo) (_ied _iea _go : Bool) (_flags : BitVec 9) (s : State) : Result :=
  fireEvent u s fun s => firstPhase u s fun s => .next (dataFunction (allMove s .write) u s)

/-- FUNC WRCHK (R184). -/
def execFuncWrchk (u : UnitNo) (_ied _iea _go : Bool) (_flags : BitVec 9) (s : State) : Result :=
  fireEvent u s fun s => firstPhase u s fun s => .next (dataFunction .check u s)

end Sys2Proof.Machine
end

