-- ==== Sys2Proof/Machine/Dispatch.lean ====
section
/-! DEFINITION. One arm per instruction: a direct call of its meaning. -/

namespace Sys2Proof.Machine

def exec (i : Instr) (s : State) : Host.Outcome State Fault Refusal :=
  match i with
  | .skde x l r v => Sys2Proof.Machine.execSkde x l r v s
  | .rdsa x l k v => Sys2Proof.Machine.execRdsa x l k v s
  | .ldda x r k v => Sys2Proof.Machine.execLdda x r k v s
  | .skat x l r v => Sys2Proof.Machine.execSkat x l r v s
  | .rdsb x l k v => Sys2Proof.Machine.execRdsb x l k v s
  | .clrf x r k v => Sys2Proof.Machine.execClrf x r k v s
  | .skdn x l r v => Sys2Proof.Machine.execSkdn x l r v s
  | .noRead2 x l k v => Sys2Proof.Machine.execNoRead2 x l k v s
  | .ldma x r k v => Sys2Proof.Machine.execLdma x r k v s
  | .sker x l r v => Sys2Proof.Machine.execSker x l r v s
  | .noRead3 x l k v => Sys2Proof.Machine.execNoRead3 x l k v s
  | .ldwc x r k v => Sys2Proof.Machine.execLdwc x r k v s
  | .noSkip0 x l r v => Sys2Proof.Machine.execNoSkip0 x l r v s
  | .rdcy x l k v => Sys2Proof.Machine.execRdcy x l k v s
  | .lsa0 x r k v => Sys2Proof.Machine.execLsa0 x r k v s
  | .skg2 x l r v => Sys2Proof.Machine.execSkg2 x l r v s
  | .rdda x l k v => Sys2Proof.Machine.execRdda x l k v s
  | .lsac x r k v => Sys2Proof.Machine.execLsac x r k v s
  | .noSkip2 x l r v => Sys2Proof.Machine.execNoSkip2 x l r v s
  | .rdma x l k v => Sys2Proof.Machine.execRdma x l k v s
  | .lsao x r k v => Sys2Proof.Machine.execLsao x r k v s
  | .noSkip3 x l r v => Sys2Proof.Machine.execNoSkip3 x l r v s
  | .rdwc x l k v => Sys2Proof.Machine.execRdwc x l k v s
  | .lsar x r k v => Sys2Proof.Machine.execLsar x r k v s
  | .noPulse1 sub x v => Sys2Proof.Machine.execNoPulse1 sub x v s
  | .noPulse2 sub x v => Sys2Proof.Machine.execNoPulse2 sub x v s
  | .funcIdle u ied iea go flags => Sys2Proof.Machine.execFuncIdle u ied iea go flags s
  | .funcRead u ied iea go flags => Sys2Proof.Machine.execFuncRead u ied iea go flags s
  | .funcWrite u ied iea go flags => Sys2Proof.Machine.execFuncWrite u ied iea go flags s
  | .funcRecal u ied iea go flags => Sys2Proof.Machine.execFuncRecal u ied iea go flags s
  | .funcSeek u ied iea go flags => Sys2Proof.Machine.execFuncSeek u ied iea go flags s
  | .funcRdall u ied iea go flags => Sys2Proof.Machine.execFuncRdall u ied iea go flags s
  | .funcWrall u ied iea go flags => Sys2Proof.Machine.execFuncWrall u ied iea go flags s
  | .funcWrchk u ied iea go flags => Sys2Proof.Machine.execFuncWrchk u ied iea go flags s

end Sys2Proof.Machine
end

