-- ==== Sys2Proof/Machine/HostCalls.lean ====
section
/-! DEFINITION. The host's calls other than the commands and the completions (45_host_lifecycle.md R220 to R225,
70_reset_and_hazards.md R260 to R262). -/

namespace Sys2Proof.Machine

/-- `reset()`: attachment, locks, stores and memory stay (R260, R261, R262). -/
def resetController (s : State) : State :=
  recompute 0 0
    { s with
      sta := 0
      stb := 0
      da := 0
      ma := 0
      wc := 0
      busy := false
      irq := false
      units := s.mapUnits (fun d => { d with ev := none, cyl := 0, func := ⟨.idle, false⟩ }) }

/-- The store an image fills: word k of the image for k below its length, zero from there on (R62, R220). -/
def Image.store (i : Image) : Memory :=
  (i.cells.filter (fun c => c.1 < i.len)).foldl (fun m c => writeWord m c.1 c.2) []

/-- `attach(u, image)`: an image past CAP is no move of the host, whichever unit it is for (R228, U13); a unit that the
configuration does not have cannot be attached (R220). -/
def attachUnit (u : UnitNo) (i : Image) (s : State) : Result :=
  if CAP < i.len then .refused .imageTooLong
  else if s.cfg.numUnits ≤ u.val then .next (s.answer (.attached false))
  else
    .next ((recompute 0 0 (s.setUnit u { s.unit u with store := Image.store i, attached := true })).answer
      (.attached true))

/-- `detach(u)`: a pending event stays; the store's contents pass to the host (R221). DESIGN CHOICE (log 18): the record
keeps them, and a detach of a unit that is not attached hands them over once more. -/
def detachUnit (u : UnitNo) (s : State) : State :=
  (recompute 0 0 (s.setUnit u { s.unit u with attached := false })).answer (.detached (s.unit u).store)

/-- `setWriteLock(u, b)` (R223). -/
def setWriteLock (u : UnitNo) (b : Bool) (s : State) : State :=
  recompute 0 0 (s.setUnit u { s.unit u with wlk := b })

/-- `ready()` (R225). -/
def State.ready (s : State) : Bool := hasAny s.sta (DON ||| ERR) || hasAny s.stb ATTN_ALL

/-- The host writes a word of system memory (R61; log 9). -/
def pokeMemory (a : Nat) (v : Word) (s : State) : Result :=
  if a < s.cfg.memSize then .next { s with mem := writeWord s.mem a v } else .fault .noSuchMemory

end Sys2Proof.Machine
end

