-- ==== Sys2Proof/Machine/Fetch.lean ====
section
/-! DEFINITION. Which agent moves next, and what its move does (44_timing.md R214, R215; 45_host_lifecycle.md R224, R228).
There is no program counter (10_state.md R42): commands come from the host's list, completions from due events. -/

namespace Sys2Proof.Machine

/-- The status-A word of unit `u`'s completion: UNIT and FUNC are the unit's own, as its go captured them, the rest is
status A (R99, R165, R170; log 12). -/
def completionWord (u : UnitNo) (s : State) : Word :=
  functionWord u (s.unit u).func.code (hasAny s.sta IED) (hasAny s.sta IEA) (hasAny s.sta GO) (s.sta.extractLsb' 0 9)

/-- The completion of unit `u` as an instruction. -/
def completionOf (u : UnitNo) (s : State) : Instr := decodeFunction (completionWord u s)

/-- A call of the host: a command runs the instruction its code decodes to, a completion call the instruction of the unit's
function, the others are the operations of HostCalls.lean. -/
def hostCall (h : HostCall) (s : State) : Result :=
  match h with
  | .command c v => exec (decodeCommand c v) s
  | .eventFired u => exec (completionOf u s) s
  | .tick => .next (advanceTick s)
  | .reset => .next (resetController s)
  | .attach u i => attachUnit u i s
  | .detach u => .next (detachUnit u s)
  | .setWriteLock u b => .next (setWriteLock u b s)
  | .ready => .next (s.answer (.ready s.ready))
  | .poke a v => pokeMemory a v s
  | .storageFault b => .next { s with ioFault := b }

/-- The unit that a tie of due events lets complete first when the host names none (R215; log 5). -/
def tieUnit (k : Nat) (us : List UnitNo) (first : UnitNo) : UnitNo :=
  us.getD (Config.tieChoice k % us.length) first

/-- The calls that wait for every due completion: a tick and a command (R214, R228). The others are liberties at any step
(R222, R228), also between an event's coming due and its completion, and between two completions of one tick; that no rule
holds them back there is DEDUCED (log 5). -/
def HostCall.waits : HostCall → Bool
  | .command _ _ | .tick => true
  | .eventFired _ | .reset | .attach _ _ | .detach _ | .setWriteLock _ _ | .ready | .poke _ _ | .storageFault _ => false

/-- The completion that runs without the host's call: that of the single due unit, else one of several by a free value
(R214, R215; log 5). -/
def dueMove (s : State) : Option (HostCall × State) :=
  match s.dueUnits with
  | [] => none
  | [u] => some (.eventFired u, s)
  | u :: v :: us => some (.eventFired (tieUnit s.draws (u :: v :: us) u), s.drawn 1)

/-- The next move and the state it runs in: the host's next call, or a due completion where that call waits for it or there
is no call. Without either the block waits (R257). -/
def nextMove (s : State) : Option (HostCall × State) :=
  match s.host with
  | [] => dueMove s
  | h :: rest => if h.waits then (dueMove s).or (some (h, { s with host := rest })) else some (h, { s with host := rest })

/-- A command is placed as the host's next call, and an event that is due is put back by one tick, or its completion would
come first (log 12). -/
def placeCommand (c : BitVec 7) (v : Word) (s : State) : State :=
  { s with
    host := .command c v :: s.host
    units := s.mapUnits (fun d => if d.ev = some 0 then { d with ev := some 1 } else d) }

/-- A status-A word is placed as the go that captured it left it: status A is the word, the unit's tag its function, and the
unit's event is due and called next (log 12). -/
def placeFunction (w : Word) (s : State) : State :=
  let u := unitField w
  let t := s.setUnit u { s.unit u with func := ⟨funcField w, false⟩, ev := some 0 }
  { t with sta := w, host := .eventFired u :: s.host }

end Sys2Proof.Machine
end

