-- ==== Sys2Proof/Machine/Step.lean ====
section
/-! DEFINITION. One step of the machine (00_scope.md R6), and the placing of a table word as its next instruction. -/

namespace Sys2Proof.Machine

/-- One step: the next move runs to completion (R6, R75). Without a move the state stays as it is (R257). -/
def step (s : State) : Host.Outcome State Fault Refusal :=
  match nextMove s with
  | none => .next s
  | some (h, t) => hostCall h t

/-- The state whose next step runs the instruction of a table word: one byte is a command code (operand 0), more are a
status-A word (log 10, log 12). -/
def State.withFetchWord (s : State) (nbits w : Nat) : State :=
  if nbits ≤ 8 then placeCommand (BitVec.ofNat 7 w) (BitVec.ofNat 18 (w >>> 8)) s
  else placeFunction (BitVec.ofNat 18 w) s

end Sys2Proof.Machine
end

