-- ==== Sys2Proof/Safety.lean ====
section
/-! DEFINITION. What every step keeps, when a run is over (10_state.md R27, R34 to R38; 70_reset_and_hazards.md R267, R275),
and the terms the statements use: bits by number, what stays the same, what a recompute derives. -/

namespace Sys2Proof.Machine

/-- Unit `u` has a pending event that is not a settle event: its first completion is still to come (R39). -/
abbrev State.inFirstPhase (s : State) (u : UnitNo) : Prop :=
  s.pending u = true ∧ (s.unit u).func.second = false

/-- The invariant of the machine. -/
structure Invariant (s : State) : Prop where
  /-- The parameters are in their ranges (R5). -/
  cfg : s.cfg.wf
  /-- System memory is canonical and below MEM_SIZE (R61). -/
  mem : s.mem.wf ∧ s.mem.below s.cfg.memSize
  /-- Every store is canonical and below CAP (R62). -/
  store : ∀ u, (s.unit u).store.wf ∧ (s.unit u).store.below CAP
  /-- A unit the configuration does not have is never attached (R34). -/
  absent : ∀ u : UnitNo, s.cfg.numUnits ≤ u.val → (s.unit u).attached = false
  /-- The second-phase bit occurs with SEEK only (R36). -/
  tag : ∀ u, (s.unit u).func.second = true → (s.unit u).func.code = .seek
  /-- ERR is set exactly when an error flag is (R27). -/
  err : hasAny s.sta ERR = (hasAny s.sta EFLAGS_A || hasAny s.stb EFLAGS_B)
  /-- The interrupt line has the level of the status registers (R33, R118). -/
  irq : s.irq = irqLevel s.sta s.stb
  /-- The media-error flags read 0 (R22, R25). -/
  media : s.sta &&& HNF = 0 ∧ s.stb &&& (TME ||| FME ||| WPE ||| LON) = 0
  /-- The selected unit is never reported unsafe and seeking at once (R119 (c)). -/
  unsafeOrSeeking : ¬(hasAny s.stb SUFU = true ∧ hasAny s.stb SUSU = true)
  /-- The controller is busy exactly while some unit's first completion is to come (R32, R267). -/
  busy : s.busy = true ↔ ∃ u, s.inFirstPhase u
  /-- A unit whose first completion is to come is the selected one, with the function of status A (R119 (c), R250, R270);
  so there is at most one. -/
  owner : ∀ u, s.inFirstPhase u → s.sel = u ∧ funcField s.sta = (s.unit u).func.code

/-- A run is quiescent: not busy, nothing pending (R275). -/
def State.quiescent (s : State) : Bool := !s.busy && allUnits.all (fun u => !s.pending u)

/-! ### Terms of the statements -/

/-- Bit `i` of a word (R7). -/
abbrev bit (w : Word) (i : Nat) : Bool := w.getLsbD i

/-- No unit's event is due (R214). -/
abbrev State.nothingDue (s : State) : Prop := ∀ u, (s.unit u).ev ≠ some 0

/-- The host's next call is a tick or a command, or there is none (R214). -/
abbrev State.nextWaits (s : State) : Prop :=
  s.host = [] ∨ (∃ rest, s.host = .tick :: rest) ∨ ∃ c v rest, s.host = .command c v :: rest

/-- The instruction that completes function `f` on unit `u`. -/
def functionRow (f : Func) (u : UnitNo) (ied iea go : Bool) (flags : BitVec 9) : Instr :=
  match f with
  | .idle => .funcIdle u ied iea go flags
  | .read => .funcRead u ied iea go flags
  | .write => .funcWrite u ied iea go flags
  | .recal => .funcRecal u ied iea go flags
  | .seek => .funcSeek u ied iea go flags
  | .rdall => .funcRdall u ied iea go flags
  | .wrall => .funcWrall u ied iea go flags
  | .wrchk => .funcWrchk u ied iea go flags

/-- A drive seeks: an event is pending and its code is SEEK or RECAL (R115). -/
def seeks (d : Drive) : Bool := d.ev.isSome && (d.func.code == .seek || d.func.code == .recal)

/-- What steps 3 to 8 of a recompute leave (R113 to R118): the dynamic flags of the selected unit, the error summary and the
interrupt level. `pendingSufu` says that SUFU was passed as a pending bit (R112). -/
structure DerivedWith (pendingSufu : Bool) (s : State) : Prop where
  suwp : bit s.sta 3 = (s.unit s.sel).wlk
  susi : bit s.sta 2 =
    ((s.unit s.sel).attached && !seeks (s.unit s.sel) && decide (203 ≤ (s.unit s.sel).cyl.toNat))
  sufu : bit s.stb 9 = (pendingSufu || !(s.unit s.sel).attached)
  susu : bit s.stb 1 = ((s.unit s.sel).attached && seeks (s.unit s.sel))
  sunr : bit s.stb 0 = (!(s.unit s.sel).attached || seeks (s.unit s.sel))
  err : bit s.sta 0 = true ↔
    (∃ i ∈ [2, 4, 5, 6, 7, 8], bit s.sta i = true) ∨ ∃ i ∈ [2, 3, 4, 5, 6, 7, 8, 9], bit s.stb i = true
  irq : s.irq = true ↔
    ((bit s.sta 1 = true ∨ bit s.sta 0 = true) ∧ bit s.sta 11 = true) ∨
      ((∃ i, 10 ≤ i ∧ bit s.stb i = true) ∧ bit s.sta 10 = true)

/-- The same without a pending bit. -/
abbrev Derived (s : State) : Prop := DerivedWith false s

/-- Status A is as before outside the bits `except` and the bits a recompute derives (0, 2, 3). -/
abbrev SameSta (s t : State) (except : List Nat) : Prop :=
  ∀ i, i ∉ 0 :: 2 :: 3 :: except → bit t.sta i = bit s.sta i

/-- Status B is as before outside the bits `except` and the bits a recompute derives (0, 1, 9). -/
abbrev SameStb (s t : State) (except : List Nat) : Prop :=
  ∀ i, i ∉ 0 :: 1 :: 9 :: except → bit t.stb i = bit s.stb i

/-- The address and count registers are as before. -/
abbrev SameRegs (s t : State) : Prop := t.da = s.da ∧ t.ma = s.ma ∧ t.wc = s.wc

/-- Unit `u`'s record is as before, its store apart. -/
abbrev SameUnit (s t : State) (u : UnitNo) : Prop :=
  (t.unit u).cyl = (s.unit u).cyl ∧ (t.unit u).func = (s.unit u).func ∧ (t.unit u).attached = (s.unit u).attached ∧
    (t.unit u).wlk = (s.unit u).wlk ∧ (t.unit u).ev = (s.unit u).ev

/-- Unit `u`'s event has fired and the rest of its record is as before, its store apart. -/
abbrev FiredUnit (s t : State) (u : UnitNo) : Prop :=
  (t.unit u).cyl = (s.unit u).cyl ∧ (t.unit u).func = (s.unit u).func ∧ (t.unit u).attached = (s.unit u).attached ∧
    (t.unit u).wlk = (s.unit u).wlk ∧ (t.unit u).ev = none

/-- Every word of system memory reads as before. -/
abbrev SameMem (s t : State) : Prop := ∀ a, readWord t.mem a = readWord s.mem a

/-- Every word of unit `u`'s store reads as before. -/
abbrev SameStore (s t : State) (u : UnitNo) : Prop := ∀ a, readWord (t.unit u).store a = readWord (s.unit u).store a

/-- The parameters, the host's further calls, the fault draw and the refusal mark are as before. -/
abbrev SameContext (s t : State) : Prop :=
  t.cfg = s.cfg ∧ t.host = s.host ∧ t.ioFault = s.ioFault ∧ t.refused = s.refused

/-- A call of the host took itself off the list, and the parameters, the draws, the effects and the refusal mark are as
before. -/
abbrev TookCall (rest : List HostCall) (s t : State) : Prop :=
  t.host = rest ∧ t.cfg = s.cfg ∧ t.ioFault = s.ioFault ∧ t.draws = s.draws ∧ t.effects = s.effects ∧
    t.refused = s.refused

/-- Everything outside the status registers, the interrupt level and the answer is as before. -/
structure SameOutside (s t : State) : Prop where
  regs : SameRegs s t
  busy : t.busy = s.busy
  units : ∀ u, SameUnit s t u
  mem : SameMem s t
  stores : ∀ u, SameStore s t u
  context : SameContext s t
  draws : t.draws = s.draws
  effects : t.effects = s.effects

/-- A command without a performed load: nothing changes but what the recompute derives (R143, R151). -/
structure Unchanged (s t : State) : Prop where
  outside : SameOutside s t
  sta : SameSta s t []
  stb : SameStb s t []
  derived : Derived t

/-- A load phase while busy: PGE, and with it ERR, and nothing else (R131). -/
structure Rejected (s t : State) : Prop where
  outside : SameOutside s t
  sta : SameSta s t []
  stb : SameStb s t [8]
  pge : bit t.stb 8 = true
  error : bit t.sta 0 = true
  derived : Derived t

/-- What a read phase returns (R92). -/
def merged (s : State) (value reg : Word) : Word := if s.cfg.readMerge = .or then value ||| reg else reg

/-- Instruction `i` completes, answers `skip`, returns the operand unless a read phase ran, and without a load phase changes
nothing else. -/
def AnswersSkip (i : Instr) (s : State) (v : Word) (l r : Bool) (skip : Bool) : Prop :=
  ∃ t w, exec i s = .next t ∧ t.reply = .command w skip ∧ (r = false → w = v) ∧ (l = false → Unchanged s t)

/-- Instruction `i` completes, returns `value`, skips only if a skip phase ran, and without a load phase changes nothing
else. -/
def AnswersValue (i : Instr) (s : State) (l k : Bool) (value : Word) : Prop :=
  ∃ t q, exec i s = .next t ∧ t.reply = .command value q ∧ (k = false → q = false) ∧ (l = false → Unchanged s t)

/-- A command answered in `t` returns its operand unless a read phase ran, and does not skip unless a skip phase ran (R90,
R130, R150). -/
def AnsweredLoad (v : Word) (r k : Bool) (t : State) : Prop :=
  ∃ w q, t.reply = .command w q ∧ (r = false → w = v) ∧ (k = false → q = false)

/-- Instruction `i`, a load with operand `v`, completes and answers: rejected while busy (R131), with the load's effect
otherwise. -/
def GatedLoad (i : Instr) (s : State) (v : Word) (r k : Bool) (effect : State → Prop) : Prop :=
  ∃ t, exec i s = .next t ∧ AnsweredLoad v r k t ∧ (s.busy = true → Rejected s t) ∧ (s.busy = false → effect t)

/-- The command code `c` is the reserved group-2 load of sub-code 0 (R97). -/
abbrev reservedCode (c : BitVec 7) : Prop := c.getLsbD 6 = true ∧ c.extractLsb' 4 2 = 0#2 ∧ c.getLsbD 2 = true

/-- Status A after the three status-A loads, before the go check (R162, R163, R164). -/
def afterLsac (s : State) (v : Word) : Word :=
  match s.cfg.clearLoadMode with
  | .andMask => s.sta &&& (v ||| ~~~0o777000#18)
  | .bitClear => s.sta &&& ~~~(v &&& 0o777000#18)
def afterLsao (s : State) (v : Word) : Word := s.sta ||| (v &&& 0o777000#18)
def afterLsar (s : State) (v : Word) : Word := (s.sta &&& ~~~0o777000#18) ||| (v &&& 0o777000#18)

/-- `|a − b|`. -/
def distance (a b : Nat) : Nat := if a ≤ b then b - a else a - b

/-- The delay of a go of function `f` on drive `d` (R210). -/
def delayOf (cfg : Config) (d : Drive) (f : Func) (da : Word) : Nat :=
  if d.attached = false ∨ f = .idle ∨ f = .seek ∨ f = .recal then cfg.minDispatch
  else max cfg.minDispatch
    (cfg.seekTicksPerCyl * distance (da.extractLsb' 10 8).toNat d.cyl.toNat + cfg.rotTicks)

/-- A status-A load that starts nothing: status A takes the word `n`, and nothing else changes (R160, R165). -/
structure LoadedWithoutGo (s : State) (n : Word) (t : State) : Prop where
  outside : SameOutside s t
  sta : ∀ i, i ∉ [0, 2, 3] → bit t.sta i = bit n i
  stb : SameStb s t []
  derived : Derived t

/-- A status-A load of the word `n` that starts the unit `n` selects (R165, R166, R210). -/
structure Started (s : State) (n : Word) (t : State) : Prop where
  busy : t.busy = true
  func : (t.unit (unitField n)).func = ⟨funcField n, false⟩
  ev : (t.unit (unitField n)).ev = some (delayOf s.cfg (s.unit (unitField n)) (funcField n) s.da)
  rest : (t.unit (unitField n)).cyl = (s.unit (unitField n)).cyl ∧
    (t.unit (unitField n)).attached = (s.unit (unitField n)).attached ∧
    (t.unit (unitField n)).wlk = (s.unit (unitField n)).wlk
  others : ∀ u, u ≠ unitField n → SameUnit s t u
  regs : SameRegs s t
  mem : SameMem s t
  stores : ∀ u, SameStore s t u
  context : SameContext s t
  draws : t.draws = s.draws
  effects : t.effects = s.effects
  field : ∀ i, 10 ≤ i → bit t.sta i = bit n i
  go : bit t.sta 9 = !s.cfg.goAutoclear
  cleared : bit t.sta 1 = false ∧ bit t.sta 4 = false ∧ bit t.sta 8 = false
  kept : bit t.sta 5 = bit s.sta 5 ∧ bit t.sta 6 = bit s.sta 6 ∧ bit t.sta 7 = bit s.sta 7
  sticky : ∀ i ∈ [2, 3, 4, 5, 6, 7, 8], bit t.stb i = false
  attention : bit t.stb (17 - (unitField n).val) = false
  otherAttention : ∀ i, 10 ≤ i → i ≠ 17 - (unitField n).val → bit t.stb i = bit s.stb i
  derived : Derived t

/-! ### Transfers -/

/-- The three components of a disk address are in range (R65). -/
abbrev validAddress (x : Word) : Prop :=
  (x.extractLsb' 0 4).toNat < 10 ∧ (x.extractLsb' 5 5).toNat < 20 ∧ (x.extractLsb' 10 8).toNat < 203

/-- The store offset of a disk address (R66). -/
def offsetOf (x : Word) : Nat :=
  (((x.extractLsb' 10 8).toNat * 20 + (x.extractLsb' 5 5).toNat) * 10 + (x.extractLsb' 0 4).toNat) * 256

/-- The words requested (R178), and those left by the memory clamp (R179) and by the disk clamp (R180). -/
def wanted (s : State) : Nat := 2 ^ 18 - s.wc.toNat
def inMemory (s : State) : Nat := min (wanted s) (s.cfg.memSize - s.ma.toNat)
def moved (s : State) : Nat := min (inMemory s) (10393600 - offsetOf s.da)

/-- The packed address of the sector at or after a store offset, the cylinder clamped to the last (R67, R68). -/
def addressAt (w : Nat) : Word :=
  let i := (w + 255) / 256
  BitVec.ofNat 18 (min (i / 200) 202 * 1024 + i % 200 / 10 * 32 + i % 200 % 10)

/-- The completion step of a data function may transfer: its event is due, its tag is a first-phase one, the unit is attached
and the disk address valid (R170, R175, R177). -/
abbrev TransferReady (s : State) (u : UnitNo) : Prop :=
  (s.unit u).ev = some 0 ∧ (s.unit u).func.second = false ∧ (s.unit u).attached = true ∧ validAddress s.da

/-- The unit's store may be written (R176). -/
abbrev Writable (s : State) (u : UnitNo) : Prop := s.cfg.writeLockEnforced = false ∨ (s.unit u).wlk = false

/-- The end of a data function of unit `u` that transferred (R179, R180, R186, R187, R188), its words and WCE apart. -/
structure Transferred (s : State) (u : UnitNo) (t : State) : Prop where
  busy : t.busy = false
  wc : t.wc = s.wc + BitVec.ofNat 18 (moved s)
  ma : t.ma = s.ma + BitVec.ofNat 18 (moved s)
  da : t.da = addressAt (offsetOf s.da + moved s)
  unit : FiredUnit s t u
  others : ∀ v, v ≠ u → SameUnit s t v
  context : SameContext s t
  reply : t.reply = s.reply
  effects : t.effects =
    s.effects ++ (if s.cfg.memSize < s.ma.toNat + wanted s then [.setNXM] else []) ++
      (if s.ioFault then [.ioError u] else [])
  done : bit t.sta 1 = true
  sta : SameSta s t [1]
  eop : bit t.stb 7 = (bit s.stb 7 || decide (10393600 < offsetOf s.da + inMemory s))
  stb : SameStb s t [4, 7]
  derived : Derived t

/-- The image of a list of words (R220). -/
def imageOf (ws : List Word) : Image := ⟨ws.length, ws.zipIdx.map fun p => (p.2, p.1)⟩

end Sys2Proof.Machine
end

