-- ==== Sys2Proof/Certificates/Slice0/Obligations.lean ====
section
/-! DEFINITION. The statements for the provers, in the terms of Safety.lean. -/

open Sys2Proof Sys2Proof.Machine

/-! ### Reset, step and encoding -/

/-- R263: the creation state, and that it is the state a reset of it gives. -/
def Obligations.CreationState : Prop :=
  State.reset.sta = 0o0000001#18 ∧ State.reset.stb = 0o0001001#18 ∧ State.reset.da = 0 ∧ State.reset.ma = 0 ∧
    State.reset.wc = 0 ∧ State.reset.busy = false ∧ State.reset.irq = false ∧
    (∀ u, (State.reset.unit u).func = ⟨.idle, false⟩ ∧ (State.reset.unit u).cyl = 0 ∧
      (State.reset.unit u).attached = false ∧ (State.reset.unit u).wlk = false ∧ (State.reset.unit u).ev = none ∧
      ∀ a, readWord (State.reset.unit u).store a = 0) ∧
    resetController State.reset = State.reset

/-- The invariant of Safety.lean holds in the creation state; the contents of memory there are the model's choice (log 8). -/
def Obligations.InvariantHoldsAtReset : Prop := Invariant State.reset

/-- Words written out from the tables of R93 and R24 decode to their rows. A word with skip and read pulse lies in two rows of
R93, and the row that names it is the model's choice (log 11), as is the byte image between the word and the decoder
(log 10). -/
def Obligations.SampleWordsDecode : Prop :=
  decodeTableWord 8 0b0000001 = some (.skde false false false 0) ∧
    decodeTableWord 8 0b0010100 = some (.clrf false false false 0) ∧
    decodeTableWord 8 0b0111100 = some (.ldwc true false false 0) ∧
    decodeTableWord 8 0b1010011 = some (.skg2 false false true 0) ∧
    decodeTableWord 8 0b1110100 = some (.lsar false false false 0) ∧
    decodeTableWord 24 0o0541000 = some (.funcSeek 5 false false true 0)

/-- R90, R214: with no completion due, the host's next command runs, as the instruction its code decodes to and as every
well-formed instruction with that code. The list of host calls is the model's form of the host (log 3). -/
def Obligations.StepRunsTheNextCommand : Prop :=
  ∀ (s : State) (c : BitVec 7) (v : Word) (rest : List HostCall),
    s.host = .command c v :: rest → s.nothingDue →
      step s = exec (decodeCommand c v) { s with host := rest } ∧
        ∀ i : Instr, i.WellFormed → encodeCode i = .command c v → step s = exec i { s with host := rest }

/-- R170, R214, R224: the completion the host calls runs as the function row of the unit's tag, whatever the word's other
bits (log 12); that of the single due unit comes before a tick, a command and the wait, by itself, which is the model's
choice (log 5). -/
def Obligations.StepRunsTheDueCompletion : Prop :=
  (∀ (s : State) (u : UnitNo) (rest : List HostCall), s.host = .eventFired u :: rest →
    ∀ ied iea go flags,
      step s = exec (functionRow (s.unit u).func.code u ied iea go flags) { s with host := rest }) ∧
  (∀ (s : State) (u : UnitNo), s.nextWaits →
    (s.unit u).ev = some 0 → (∀ v, (s.unit v).ev = some 0 → v = u) →
    ∀ ied iea go flags, step s = exec (functionRow (s.unit u).func.code u ied iea go flags) s)

/-- R215: when several events are due and a tick, a command or no call stands next, the completion of one of them runs; the
choice is a free value (log 5). -/
def Obligations.TiedCompletionsRunInSomeOrder : Prop :=
  ∀ (s : State) (u v : UnitNo), s.nextWaits → u ≠ v →
    (s.unit u).ev = some 0 → (s.unit v).ev = some 0 →
    ∃ w, (s.unit w).ev = some 0 ∧ ∀ ied iea go flags,
      step s = exec (functionRow (s.unit w).func.code w ied iea go flags) { s with draws := s.draws + 1 }

/-- Decoding the encoding of a well-formed instruction gives it back, every operand included. Which row's term of a combined
pulse is well-formed (log 11), and the byte image (log 10), are the model's choice. -/
def Obligations.DecodeOfEncodeIsTheInstruction : Prop :=
  ∀ i : Instr, i.WellFormed → decode (encode i) = .ok i

/-- Bytes that decode are the encoding of the well-formed instruction they decode to. The byte image is the model's choice
(log 10). -/
def Obligations.EncodeOfDecodeIsTheBytes : Prop :=
  ∀ (bytes : List Byte) (i : Instr), decode bytes = .ok i → i.WellFormed ∧ encode i = bytes

/-- R94: a word with several pulse bits is one command: whichever of its rows it is read as, the meaning is the same. -/
def Obligations.EqualWordsHaveEqualMeanings : Prop :=
  ∀ (i j : Instr) (s : State), encode i = encode j → exec i s = exec j s

/-- R91: bit 3 of the command code is ignored. -/
def Obligations.CodeBit3IsIgnored : Prop :=
  ∀ (c : BitVec 7) (v : Word) (s : State), exec (decodeCommand (c ^^^ 8#7) v) s = exec (decodeCommand c v) s

/-! ### Commands without a performed load -/

/-- R133, R137, R139, R141: the skip tests of group 1, in every command that has them. -/
def Obligations.Group1SkipTests : Prop :=
  ∀ (x l r : Bool) (v : Word) (s : State),
    AnswersSkip (.skde x l r v) s v l r (bit s.sta 1 || bit s.sta 0) ∧
    AnswersSkip (.skat x l r v) s v l r (decide (s.stb &&& 0o776000#18 ≠ 0)) ∧
    AnswersSkip (.skdn x l r v) s v l r (bit s.sta 1) ∧
    AnswersSkip (.sker x l r v) s v l r (bit s.sta 0)

/-- R152, R153: the skip phases of group 2; SKG2 by its parameter, the others never skip. The command with S = 0 and a load
pulse is the reserved one (R97). -/
def Obligations.Group2SkipTests : Prop :=
  ∀ (x l r : Bool) (v : Word) (s : State),
    (s.cfg.g2SkipCond = .always → AnswersSkip (.skg2 x l r v) s v l r true) ∧
    (∀ a b, s.cfg.g2SkipCond = .flags a b →
      AnswersSkip (.skg2 x l r v) s v l r (decide (s.sta &&& a ≠ 0 ∨ s.stb &&& b ≠ 0))) ∧
    (s.cfg.g2SkipCond = .uninterpreted → AnswersSkip (.skg2 x l r v) s v l r (Config.openSkipCond s)) ∧
    AnswersSkip (.noSkip2 x l r v) s v l r false ∧
    AnswersSkip (.noSkip3 x l r v) s v l r false ∧
    (l = false ∨ s.cfg.g2S0Load = .clearField → AnswersSkip (.noSkip0 x l r v) s v l r false)

/-- R132, R136: the status reads return the register as it stands before the command's load and recompute. -/
def Obligations.StatusReads : Prop :=
  ∀ (x l k : Bool) (v : Word) (s : State),
    AnswersValue (.rdsa x l k v) s l k (merged s v s.sta) ∧ AnswersValue (.rdsb x l k v) s l k (merged s v s.stb)

/-- R155 to R158: the reads of group 2. The command with S = 0 and a load pulse is the reserved one (R97). -/
def Obligations.RegisterReads : Prop :=
  ∀ (x l k : Bool) (v : Word) (s : State),
    AnswersValue (.rdda x l k v) s l k (merged s v s.da) ∧
    AnswersValue (.rdma x l k v) s l k (merged s v s.ma) ∧
    AnswersValue (.rdwc x l k v) s l k (merged s v s.wc) ∧
    (l = false ∨ s.cfg.g2S0Load = .clearField →
      AnswersValue (.rdcy x l k v) s l k (merged s v (BitVec.ofNat 18 (s.unit (unitField s.sta)).cyl.toNat)))

/-- R142: the read slots without action return the operand, and the other phases run: the skip phase tests DON (S = 2) or ERR
(S = 3). -/
def Obligations.ReadSlotsWithoutAction : Prop :=
  ∀ (x l k : Bool) (v : Word) (s : State),
    (∃ t, exec (.noRead2 x l k v) s = .next t ∧ t.reply = .command v (k && bit s.sta 1) ∧
      (l = false → Unchanged s t)) ∧
    (∃ t, exec (.noRead3 x l k v) s = .next t ∧ t.reply = .command v (k && bit s.sta 0) ∧
      (l = false → Unchanged s t))

/-- R95: a command without a pulse runs no phase. -/
def Obligations.NoPulseOnlyRecomputes : Prop :=
  ∀ (sub : BitVec 2) (x : Bool) (v : Word) (s : State),
    (∃ t, exec (.noPulse1 sub x v) s = .next t ∧ t.reply = .command v false ∧ Unchanged s t) ∧
    (∃ t, exec (.noPulse2 sub x v) s = .next t ∧ t.reply = .command v false ∧ Unchanged s t)

/-! ### Loads -/

/-- R134: LDDA stores the whole operand and makes NXS, NXF and NXC show its bad components; while busy it only sets PGE. -/
def Obligations.LoadDiskAddress : Prop :=
  ∀ (x r k : Bool) (v : Word) (s : State), GatedLoad (.ldda x r k v) s v r k fun t =>
    t.da = v ∧ t.ma = s.ma ∧ t.wc = s.wc ∧ t.busy = false ∧ (∀ u, SameUnit s t u ∧ SameStore s t u) ∧ SameMem s t ∧
      SameContext s t ∧ t.draws = s.draws ∧ t.effects = s.effects ∧
      bit t.sta 5 = decide (10 ≤ (v.extractLsb' 0 4).toNat) ∧
      bit t.sta 6 = decide (20 ≤ (v.extractLsb' 5 5).toNat) ∧
      bit t.sta 7 = decide (203 ≤ (v.extractLsb' 10 8).toNat) ∧
      SameSta s t [5, 6, 7] ∧ SameStb s t [] ∧ Derived t

/-- R138, R140: LDMA and LDWC store the whole operand; while busy they only set PGE. -/
def Obligations.LoadMemoryAddressAndWordCount : Prop :=
  ∀ (x r k : Bool) (v : Word) (s : State),
    (GatedLoad (.ldma x r k v) s v r k fun t =>
      t.ma = v ∧ t.da = s.da ∧ t.wc = s.wc ∧ t.busy = false ∧ (∀ u, SameUnit s t u ∧ SameStore s t u) ∧ SameMem s t ∧
        SameContext s t ∧ t.draws = s.draws ∧ t.effects = s.effects ∧ SameSta s t [] ∧ SameStb s t [] ∧ Derived t) ∧
    (GatedLoad (.ldwc x r k v) s v r k fun t =>
      t.wc = v ∧ t.da = s.da ∧ t.ma = s.ma ∧ t.busy = false ∧ (∀ u, SameUnit s t u ∧ SameStore s t u) ∧ SameMem s t ∧
        SameContext s t ∧ t.draws = s.draws ∧ t.effects = s.effects ∧ SameSta s t [] ∧ SameStb s t [] ∧ Derived t)

/-- R135: CLRF clears DON and the sticky errors of both registers and nothing else; while busy it only sets PGE. -/
def Obligations.ClearFlags : Prop :=
  ∀ (x r k : Bool) (v : Word) (s : State), GatedLoad (.clrf x r k v) s v r k fun t =>
    SameOutside s t ∧ (∀ i ∈ [1, 4, 5, 6, 7, 8], bit t.sta i = false) ∧ SameSta s t [1, 4, 5, 6, 7, 8] ∧
      (∀ i ∈ [2, 3, 4, 5, 6, 7, 8], bit t.stb i = false) ∧ SameStb s t [2, 3, 4, 5, 6, 7, 8] ∧ Derived t

/-- R131: while busy, the load phase of any command only sets PGE, and its skip and read phases answer as without it. The
reserved load that is refused as a whole is refused while busy too (R97, R150; log 22). -/
def Obligations.BusyGateRejectsEveryLoad : Prop :=
  ∀ (c : BitVec 7) (v : Word) (s : State), s.busy = true → c.getLsbD 2 = true →
    ¬(reservedCode c ∧ s.cfg.g2S0Load = .refuse) →
    ∃ t t', exec (decodeCommand c v) s = .next t ∧ exec (decodeCommand (c &&& 0b1111011#7) v) s = .next t' ∧
      t.reply = t'.reply ∧ Rejected s t

/-- R97, R240: a command with the reserved load is refused as a whole when the parameter says so: no phase runs and the
refusal is recorded (U1). Every other code completes without a refusal. -/
def Obligations.OnlyTheReservedCodeIsRefused : Prop :=
  ∀ (c : BitVec 7) (v : Word) (s : State),
    (reservedCode c ∧ s.cfg.g2S0Load = .refuse → exec (decodeCommand c v) s = .next { s with refused := true }) ∧
    (¬(reservedCode c ∧ s.cfg.g2S0Load = .refuse) → ∃ t, exec (decodeCommand c v) s = .next t ∧ t.refused = s.refused)

/-- R161: LSA0 with either value of its parameter. -/
def Obligations.ReservedLoadByItsParameter : Prop :=
  ∀ (x r k : Bool) (v : Word) (s : State),
    (s.cfg.g2S0Load = .refuse → exec (.lsa0 x r k v) s = .next { s with refused := true }) ∧
    (s.cfg.g2S0Load = .clearField → GatedLoad (.lsa0 x r k v) s v r k fun t =>
      LoadedWithoutGo s (s.sta &&& ~~~0o777000#18) t)

/-- R160, R162 to R165, R267: a status-A load that leaves GO = 0, or selects a unit with a pending event, changes the
read/write field as loaded and starts nothing. -/
def Obligations.StatusALoadWithoutGo : Prop :=
  ∀ (i : Instr) (n : Word) (x r k : Bool) (v : Word) (s : State), s.busy = false →
    (i = .lsac x r k v ∧ n = afterLsac s v ∨ i = .lsao x r k v ∧ n = afterLsao s v ∨
      i = .lsar x r k v ∧ n = afterLsar s v) →
    (bit n 9 = false ∨ (s.unit (unitField n)).ev ≠ none) →
    ∃ t, exec i s = .next t ∧ AnsweredLoad v r k t ∧ LoadedWithoutGo s n t

/-- R165, R166, R210: a status-A load that leaves GO = 1 and selects a unit without a pending event starts it. -/
def Obligations.GoStartsTheSelectedUnit : Prop :=
  ∀ (i : Instr) (n : Word) (x r k : Bool) (v : Word) (s : State), s.busy = false →
    (i = .lsac x r k v ∧ n = afterLsac s v ∨ i = .lsao x r k v ∧ n = afterLsao s v ∨
      i = .lsar x r k v ∧ n = afterLsar s v) →
    bit n 9 = true → (s.unit (unitField n)).ev = none →
    ∃ t, exec i s = .next t ∧ AnsweredLoad v r k t ∧ Started s n t

/-- R143: no group-1 command starts a unit or changes busy, a unit field or a pending event. -/
def Obligations.Group1NeverTouchesUnits : Prop :=
  ∀ (c : BitVec 7) (v : Word) (s : State), c.getLsbD 6 = false →
    ∃ t, exec (decodeCommand c v) s = .next t ∧ t.busy = s.busy ∧ t.units = s.units

/-! ### Completion steps -/

/-- R171: the idle completion clears busy and takes its event off the schedule. -/
def Obligations.IdleCompletion : Prop :=
  ∀ (u : UnitNo) (ied iea go : Bool) (flags : BitVec 9) (s : State),
    (s.unit u).ev = some 0 → (s.unit u).func.second = false →
    ∃ t, exec (.funcIdle u ied iea go flags) s = .next t ∧ t.busy = false ∧ t.sta = s.sta ∧ t.stb = s.stb ∧
      t.irq = s.irq ∧ SameRegs s t ∧ FiredUnit s t u ∧ (∀ v, v ≠ u → SameUnit s t v) ∧ (∀ v, SameStore s t v) ∧
      SameMem s t ∧ SameContext s t ∧ t.draws = s.draws ∧ t.effects = s.effects ∧ t.reply = s.reply

/-- R172, R211: phase 1 of a seek (to the staged cylinder, not validated) and of a recalibrate (to cylinder 0). -/
def Obligations.SeekPhaseOne : Prop :=
  ∀ (i : Instr) (c : BitVec 8) (u : UnitNo) (ied iea go : Bool) (flags : BitVec 9) (s : State),
    (i = .funcSeek u ied iea go flags ∧ c = s.da.extractLsb' 10 8 ∨ i = .funcRecal u ied iea go flags ∧ c = 0) →
    (s.unit u).ev = some 0 → (s.unit u).func.second = false →
    ∃ t, exec i s = .next t ∧ t.busy = false ∧ (t.unit u).cyl = c ∧ (t.unit u).func = ⟨.seek, true⟩ ∧
      (t.unit u).ev = some (max s.cfg.minDispatch
        (s.cfg.seekTicksPerCyl * distance c.toNat (s.unit u).cyl.toNat)) ∧
      (t.unit u).attached = (s.unit u).attached ∧ (t.unit u).wlk = (s.unit u).wlk ∧
      (∀ v, v ≠ u → SameUnit s t v) ∧ (∀ v, SameStore s t v) ∧ SameMem s t ∧ SameRegs s t ∧ SameContext s t ∧
      t.draws = s.draws ∧ t.effects = s.effects ∧ t.reply = s.reply ∧ SameSta s t [] ∧ SameStb s t [] ∧ Derived t

/-- R174: phase 2 raises the unit's attention and schedules nothing. -/
def Obligations.SeekPhaseTwo : Prop :=
  ∀ (u : UnitNo) (ied iea go : Bool) (flags : BitVec 9) (s : State),
    (s.unit u).ev = some 0 → (s.unit u).func.second = true →
    ∃ t, exec (.funcSeek u ied iea go flags) s = .next t ∧ bit t.stb (17 - u.val) = true ∧ t.busy = s.busy ∧
      FiredUnit s t u ∧ (∀ v, v ≠ u → SameUnit s t v) ∧ (∀ v, SameStore s t v) ∧ SameMem s t ∧ SameRegs s t ∧
      SameContext s t ∧ t.draws = s.draws ∧ t.effects = s.effects ∧ t.reply = s.reply ∧ SameSta s t [] ∧
      SameStb s t [17 - u.val] ∧ Derived t

/-- R224: a completion call for a unit without a scheduled event is refused: the mark is set and nothing else happens. That an
event which is scheduled and not yet due is treated alike is the model's reading (log 13). -/
def Obligations.CompletionNotDueIsRefused : Prop :=
  ∀ (f : Func) (u : UnitNo) (ied iea go : Bool) (flags : BitVec 9) (s : State), (s.unit u).ev ≠ some 0 →
    exec (functionRow f u ied iea go flags) s = .next { s with refused := true }

/-- R99, R170: a tag with the second-phase bit and a code other than SEEK is refused at its completion. That the event, which
has fired (R38), is off the schedule then is the model's reading (log 13). -/
def Obligations.SecondPhaseOfOtherFunctionsIsRefused : Prop :=
  ∀ (f : Func) (u : UnitNo) (ied iea go : Bool) (flags : BitVec 9) (s : State),
    (s.unit u).ev = some 0 → (s.unit u).func.second = true → f ≠ .seek →
    exec (functionRow f u ied iea go flags) s =
      .next { s.setUnit u { s.unit u with ev := none } with refused := true }

/-- R175: a data function on a detached unit moves nothing, sets DON and SUFU, and tells the host. -/
def Obligations.DetachedDataFunction : Prop :=
  ∀ (f : Func) (u : UnitNo) (ied iea go : Bool) (flags : BitVec 9) (s : State),
    f ∈ [.read, .write, .rdall, .wrall, .wrchk] →
    (s.unit u).ev = some 0 → (s.unit u).func.second = false → (s.unit u).attached = false →
    ∃ t, exec (functionRow f u ied iea go flags) s = .next t ∧ t.busy = false ∧ bit t.sta 1 = true ∧
      bit t.stb 9 = true ∧ bit t.sta 0 = true ∧ t.effects = s.effects ++ [.notAttached u] ∧
      FiredUnit s t u ∧ (∀ v, v ≠ u → SameUnit s t v) ∧ (∀ v, SameStore s t v) ∧ SameMem s t ∧ SameRegs s t ∧
      SameContext s t ∧ t.draws = s.draws ∧ t.reply = s.reply ∧ SameSta s t [1] ∧ SameStb s t [] ∧ DerivedWith true t

/-- R176: a function that writes the store of a locked unit moves nothing and sets DON and WLE. -/
def Obligations.WriteLockStopsWrites : Prop :=
  ∀ (f : Func) (u : UnitNo) (ied iea go : Bool) (flags : BitVec 9) (s : State),
    f = .write ∨ f = .wrall ∧ s.cfg.allMode = .asPlain →
    (s.unit u).ev = some 0 → (s.unit u).func.second = false → (s.unit u).attached = true →
    s.cfg.writeLockEnforced = true → (s.unit u).wlk = true →
    ∃ t, exec (functionRow f u ied iea go flags) s = .next t ∧ t.busy = false ∧ bit t.sta 1 = true ∧
      bit t.sta 8 = true ∧ bit t.sta 0 = true ∧ t.effects = s.effects ∧
      FiredUnit s t u ∧ (∀ v, v ≠ u → SameUnit s t v) ∧ (∀ v, SameStore s t v) ∧ SameMem s t ∧ SameRegs s t ∧
      SameContext s t ∧ t.draws = s.draws ∧ t.reply = s.reply ∧ SameSta s t [1, 8] ∧ SameStb s t [] ∧ Derived t

/-- R177: a data function whose disk address has a bad component flags it, sets DON and SUFU and moves nothing. -/
def Obligations.BadAddressAborts : Prop :=
  ∀ (f : Func) (u : UnitNo) (ied iea go : Bool) (flags : BitVec 9) (s : State),
    f ∈ [.read, .write, .rdall, .wrall, .wrchk] →
    (f = .write ∨ f = .wrall ∧ s.cfg.allMode = .asPlain → Writable s u) →
    (s.unit u).ev = some 0 → (s.unit u).func.second = false → (s.unit u).attached = true → ¬validAddress s.da →
    ∃ t, exec (functionRow f u ied iea go flags) s = .next t ∧ t.busy = false ∧ bit t.sta 1 = true ∧
      bit t.sta 5 = (bit s.sta 5 || decide (10 ≤ (s.da.extractLsb' 0 4).toNat)) ∧
      bit t.sta 6 = (bit s.sta 6 || decide (20 ≤ (s.da.extractLsb' 5 5).toNat)) ∧
      bit t.sta 7 = (bit s.sta 7 || decide (203 ≤ (s.da.extractLsb' 10 8).toNat)) ∧
      bit t.stb 9 = true ∧ bit t.sta 0 = true ∧ t.effects = s.effects ∧
      FiredUnit s t u ∧ (∀ v, v ≠ u → SameUnit s t v) ∧ (∀ v, SameStore s t v) ∧ SameMem s t ∧ SameRegs s t ∧
      SameContext s t ∧ t.draws = s.draws ∧ t.reply = s.reply ∧ SameSta s t [1, 5, 6, 7] ∧ SameStb s t [] ∧
      DerivedWith true t

/-- R182 with R178 to R181, R185 to R188: READ, and RDALL as plain, fill memory from the store. With a storage fault the words
they write are free values (log 6, 7). -/
def Obligations.ReadFillsMemoryFromTheStore : Prop :=
  ∀ (f : Func) (u : UnitNo) (ied iea go : Bool) (flags : BitVec 9) (s : State),
    f = .read ∨ f = .rdall ∧ s.cfg.allMode = .asPlain → TransferReady s u → s.mem.wf →
    ∃ t, exec (functionRow f u ied iea go flags) s = .next t ∧ Transferred s u t ∧ bit t.stb 4 = bit s.stb 4 ∧
      (∀ v, SameStore s t v) ∧
      (∀ a, a < s.ma.toNat ∨ s.ma.toNat + moved s ≤ a → readWord t.mem a = readWord s.mem a) ∧
      (s.ioFault = false → t.draws = s.draws ∧
        ∀ k, k < moved s → readWord t.mem (s.ma.toNat + k) = readWord (s.unit u).store (offsetOf s.da + k))

/-- R183 with R178 to R181, R185 to R188: WRITE, and WRALL as plain, fill the store from memory and pad the last sector with
zeros. With a storage fault the words they write are free values (log 6, 7). -/
def Obligations.WriteFillsTheStoreFromMemory : Prop :=
  ∀ (f : Func) (u : UnitNo) (ied iea go : Bool) (flags : BitVec 9) (s : State),
    f = .write ∨ f = .wrall ∧ s.cfg.allMode = .asPlain → TransferReady s u → Writable s u →
    (s.unit u).store.wf →
    ∃ t, exec (functionRow f u ied iea go flags) s = .next t ∧ Transferred s u t ∧ bit t.stb 4 = bit s.stb 4 ∧
      SameMem s t ∧ (∀ v, v ≠ u → SameStore s t v) ∧
      (∀ a, a < offsetOf s.da ∨ offsetOf s.da + (moved s + 255) / 256 * 256 ≤ a →
        readWord (t.unit u).store a = readWord (s.unit u).store a) ∧
      (s.ioFault = false → t.draws = s.draws ∧
        (∀ k, k < moved s → readWord (t.unit u).store (offsetOf s.da + k) = readWord s.mem (s.ma.toNat + k)) ∧
        ∀ k, moved s ≤ k → k < (moved s + 255) / 256 * 256 → readWord (t.unit u).store (offsetOf s.da + k) = 0)

/-- R184 with R178 to R181, R186 to R188: WRCHK sets WCE when a word differs. With a storage fault WCE is set or not by a
free value (log 6, 7). -/
def Obligations.WriteCheckComparesEveryWord : Prop :=
  ∀ (u : UnitNo) (ied iea go : Bool) (flags : BitVec 9) (s : State), TransferReady s u →
    ∃ t, exec (.funcWrchk u ied iea go flags) s = .next t ∧ Transferred s u t ∧
      SameMem s t ∧ (∀ v, SameStore s t v) ∧ (bit s.stb 4 = true → bit t.stb 4 = true) ∧
      (s.ioFault = false → t.draws = s.draws ∧
        (bit t.stb 4 = true ↔ bit s.stb 4 = true ∨
          ∃ k, k < moved s ∧
            readWord (s.unit u).store (offsetOf s.da + k) ≠ readWord s.mem (s.ma.toNat + k)))

/-- R185: with `ALL_MODE = no_data`, RDALL and WRALL move no word; the clamps, the registers and the completion are those of a
transfer, the report of a storage fault included, which is the model's reading (log 23). -/
def Obligations.AllFunctionsWithoutData : Prop :=
  ∀ (f : Func) (u : UnitNo) (ied iea go : Bool) (flags : BitVec 9) (s : State),
    f = .rdall ∨ f = .wrall → s.cfg.allMode = .noData → TransferReady s u →
    ∃ t, exec (functionRow f u ied iea go flags) s = .next t ∧ Transferred s u t ∧ bit t.stb 4 = bit s.stb 4 ∧
      SameMem s t ∧ (∀ v, SameStore s t v) ∧ t.draws = s.draws

/-- R189 (a): a write-check of the region a read has just filled, with the same count, sets no WCE. -/
def Obligations.WriteCheckAfterReadAgrees : Prop :=
  ∀ (u : UnitNo) (ied iea go : Bool) (flags : BitVec 9) (s : State),
    TransferReady s u → s.mem.wf → s.ioFault = false →
    ∃ t q, exec (.funcRead u ied iea go flags) s = .next t ∧
      exec (.funcWrchk u ied iea go flags)
        ({ t with da := s.da, ma := s.ma, wc := s.wc }.setUnit u
          { t.unit u with func := ⟨.wrchk, false⟩, ev := some 0 }) = .next q ∧
      bit q.stb 4 = bit s.stb 4

/-! ### The host's other calls -/

/-- R220: attach binds a store with the image's words, zero past its end; it fails for a unit the configuration does not
have. An image longer than CAP is no move of the host (R228, U13). The image as a length and cells is the model's form
(log 17). -/
def Obligations.AttachBindsTheImage : Prop :=
  (∀ (s : State) (u : UnitNo) (ws : List Word) (rest : List HostCall),
    s.host = .attach u (imageOf ws) :: rest → ws.length ≤ 10393600 →
    (u.val < s.cfg.numUnits → ∃ t, step s = .next t ∧ t.reply = .attached true ∧
      (t.unit u).attached = true ∧ (∀ a, readWord (t.unit u).store a = ws.getD a 0) ∧
      (t.unit u).cyl = (s.unit u).cyl ∧ (t.unit u).func = (s.unit u).func ∧ (t.unit u).wlk = (s.unit u).wlk ∧
      (t.unit u).ev = (s.unit u).ev ∧ (∀ v, v ≠ u → SameUnit s t v ∧ SameStore s t v) ∧ SameMem s t ∧ SameRegs s t ∧
      t.busy = s.busy ∧ TookCall rest s t ∧ SameSta s t [] ∧ SameStb s t [] ∧ Derived t) ∧
    (s.cfg.numUnits ≤ u.val → step s = .next { s with host := rest, reply := .attached false })) ∧
  ∀ (s : State) (u : UnitNo) (i : Image) (rest : List HostCall),
    s.host = .attach u i :: rest → 10393600 < i.len → step s = .refused .imageTooLong

/-- R221: detach unbinds the unit, keeps its pending event, and hands the store's contents to the host. That they also stay in
the unit's record, and that a detach of a detached unit hands them over again, is the model's choice (log 18). -/
def Obligations.DetachKeepsThePendingEvent : Prop :=
  ∀ (s : State) (u : UnitNo) (rest : List HostCall), s.host = .detach u :: rest →
    ∃ t, step s = .next t ∧ t.reply = .detached (s.unit u).store ∧ (t.unit u).attached = false ∧
      (t.unit u).cyl = (s.unit u).cyl ∧ (t.unit u).func = (s.unit u).func ∧ (t.unit u).wlk = (s.unit u).wlk ∧
      (t.unit u).ev = (s.unit u).ev ∧ (∀ v, v ≠ u → SameUnit s t v) ∧ (∀ v, SameStore s t v) ∧ SameMem s t ∧
      SameRegs s t ∧ t.busy = s.busy ∧ TookCall rest s t ∧ SameSta s t [] ∧ SameStb s t [] ∧ Derived t

/-- R223: a write-lock change is followed by a recompute. -/
def Obligations.WriteLockChangeShowsAtOnce : Prop :=
  ∀ (s : State) (u : UnitNo) (b : Bool) (rest : List HostCall), s.host = .setWriteLock u b :: rest →
    ∃ t, step s = .next t ∧ (t.unit u).wlk = b ∧ (t.unit u).cyl = (s.unit u).cyl ∧
      (t.unit u).func = (s.unit u).func ∧ (t.unit u).attached = (s.unit u).attached ∧
      (t.unit u).ev = (s.unit u).ev ∧ (∀ v, v ≠ u → SameUnit s t v) ∧ (∀ v, SameStore s t v) ∧ SameMem s t ∧
      SameRegs s t ∧ t.busy = s.busy ∧ TookCall rest s t ∧ t.reply = s.reply ∧ SameSta s t [] ∧ SameStb s t [] ∧
      Derived t

/-- R260, R261, R262: reset zeroes the registers, cancels every event, and keeps attachment, locks, stores and memory. It may
come while an event is due, by the model's reading (R228; log 5). That the refusal mark stays is its reading too (log 15), that
the answer stays its choice (log 16). -/
def Obligations.ResetClearsTheController : Prop :=
  ∀ (s : State) (rest : List HostCall), s.host = .reset :: rest →
    ∃ t, step s = .next t ∧ t.da = 0 ∧ t.ma = 0 ∧ t.wc = 0 ∧ t.busy = false ∧ t.irq = false ∧
      (∀ u, (t.unit u).ev = none ∧ (t.unit u).cyl = 0 ∧ (t.unit u).func = ⟨.idle, false⟩ ∧
        (t.unit u).attached = (s.unit u).attached ∧ (t.unit u).wlk = (s.unit u).wlk ∧ SameStore s t u) ∧
      SameMem s t ∧ TookCall rest s t ∧ t.reply = s.reply ∧
      t.sta = (if (s.unit 0).wlk then 0o10#18 else 0) ||| (if (s.unit 0).attached then 0 else 0o1#18) ∧
      t.stb = (if (s.unit 0).attached then 0 else 0o1001#18)

/-- R225: `ready` is DON, ERR or any attention, and changes no state. The field that holds the answer is the model's choice
(log 16), and that the call may come while an event is due its reading (log 5). -/
def Obligations.ReadyPredicate : Prop :=
  ∀ (s : State) (rest : List HostCall), s.host = .ready :: rest →
    ∃ b, step s = .next { s with host := rest, reply := .ready b } ∧
      (b = true ↔ bit s.sta 1 = true ∨ bit s.sta 0 = true ∨ ∃ i, 10 ≤ i ∧ bit s.stb i = true)

/-- R214: a tick takes one from every pending event and changes nothing else. Ticks as calls are the model's form (log 19). -/
def Obligations.TickAdvancesEveryEvent : Prop :=
  ∀ (s : State) (rest : List HostCall), s.host = .tick :: rest → s.nothingDue →
    ∃ t, step s = .next t ∧
      (∀ u, (∀ d, (s.unit u).ev = some (d + 1) → (t.unit u).ev = some d) ∧ ((s.unit u).ev = none → (t.unit u).ev = none) ∧
        (t.unit u).cyl = (s.unit u).cyl ∧ (t.unit u).func = (s.unit u).func ∧
        (t.unit u).attached = (s.unit u).attached ∧ (t.unit u).wlk = (s.unit u).wlk ∧ SameStore s t u) ∧
      { t with units := s.units } = { s with host := rest }

/-- The model's choice (log 9): the host's own memory write stores the word below MEM_SIZE and faults at another address. -/
def Obligations.HostMemoryWrite : Prop :=
  ∀ (s : State) (a : Nat) (v : Word) (rest : List HostCall), s.host = .poke a v :: rest → s.mem.wf →
    (a < s.cfg.memSize → ∃ t, step s = .next t ∧ { t with mem := s.mem } = { s with host := rest } ∧
      ∀ b, readWord t.mem b = if b = a then v else readWord s.mem b) ∧
    (s.cfg.memSize ≤ a → step s = .fault .noSuchMemory)

/-! ### The status model and the geometry -/

/-- R110 to R118: what a recompute rewrites, with any pending bits. `u` is the unit selected after step 1. -/
def Obligations.RecomputeDerivesTheStatus : Prop :=
  ∀ (pa pb : Word) (s : State) (u : UnitNo) (t : State),
    u = unitField ((s.sta &&& ~~~0o0000015#18) ||| pa) → t = recompute pa pb s →
    { t with sta := s.sta, stb := s.stb, irq := s.irq } = s ∧
    (∀ i, i ∉ [0, 2, 3] → bit t.sta i = (bit s.sta i || bit pa i)) ∧
    (∀ i, i ∉ [0, 1, 9] → bit t.stb i = (bit s.stb i || bit pb i)) ∧
    bit t.sta 3 = (bit pa 3 || (s.unit u).wlk) ∧
    bit t.sta 2 = (bit pa 2 ||
      ((s.unit u).attached && !seeks (s.unit u) && decide (203 ≤ (s.unit u).cyl.toNat))) ∧
    bit t.stb 9 = (bit pb 9 || !(s.unit u).attached) ∧
    bit t.stb 1 = (bit pb 1 || ((s.unit u).attached && seeks (s.unit u))) ∧
    bit t.stb 0 = (bit pb 0 || (!(s.unit u).attached || seeks (s.unit u))) ∧
    (bit t.sta 0 = true ↔ bit pa 0 = true ∨ t.sta &&& 0o0000764#18 ≠ 0 ∨ t.stb &&& 0o0001774#18 ≠ 0) ∧
    (t.irq = true ↔ (t.sta &&& 0o0000003#18 ≠ 0 ∧ bit t.sta 11 = true) ∨
      (t.stb &&& 0o0776000#18 ≠ 0 ∧ bit t.sta 10 = true))

/-- R119 (a): a recompute without pending bits is idempotent. -/
def Obligations.RecomputeIsIdempotent : Prop :=
  ∀ s : State, recompute 0 0 (recompute 0 0 s) = recompute 0 0 s

/-- R119 (b): dynamic bits passed as pending are gone after the next recompute. -/
def Obligations.PendingDynamicBitsAreTransient : Prop :=
  ∀ (pa pb : Word) (s : State),
    recompute 0 0 (recompute pa pb s) =
      recompute 0 0 (recompute (pa &&& ~~~0o0000015#18) (pb &&& ~~~0o0001003#18) s)

/-- R69: the geometry codec's round trips; the last one outside the last sector, where R67's clamp applies (log 25). -/
def Obligations.GeometryRoundTrips : Prop :=
  (∀ x : Word, validAddress x → bit x 4 = false → encodeDA (fromLinear (toLinear (decodeDA x))) = x) ∧
  (∀ k : Nat, k < 40600 → toLinear (fromLinear (256 * k)) = 256 * k) ∧
  (∀ w : Nat, w < 10393600 → w % 256 ≠ 0 → w / 256 < 40599 → toLinear (fromLinear w) = (w / 256 + 1) * 256)

/-! ### The whole machine -/

/-- Every step keeps the invariant of Safety.lean. -/
def Obligations.InvariantIsKeptByEveryStep : Prop :=
  ∀ s t : State, Invariant s → step s = .next t → Invariant t

/-- R35: a unit's cylinder changes only by its own seek or recalibrate, phase 1, and by reset. -/
def Obligations.CylinderChangesOnlyBySeekOrReset : Prop :=
  ∀ (s t : State) (u : UnitNo), step s = .next t → (t.unit u).cyl ≠ (s.unit u).cyl →
    (∃ rest, s.host = .reset :: rest) ∨
      ((s.unit u).ev = some 0 ∧ (s.unit u).func.second = false ∧
        ((s.unit u).func.code = .seek ∨ (s.unit u).func.code = .recal))

/-- R26: a unit's attention is raised only by its own seek, phase 2. -/
def Obligations.AttentionIsRaisedOnlyBySettling : Prop :=
  ∀ (s t : State) (u : UnitNo), step s = .next t → bit s.stb (17 - u.val) = false → bit t.stb (17 - u.val) = true →
    (s.unit u).ev = some 0 ∧ (s.unit u).func = ⟨.seek, true⟩

/-- R26: a unit's attention is cleared only by a go on that unit and by reset. -/
def Obligations.AttentionIsClearedOnlyByGoOrReset : Prop :=
  ∀ (s t : State) (u : UnitNo), step s = .next t → bit s.stb (17 - u.val) = true → bit t.stb (17 - u.val) = false →
    (∃ rest, s.host = .reset :: rest) ∨
      (s.nothingDue ∧ (∃ c v rest, s.host = .command c v :: rest) ∧ s.busy = false ∧ (s.unit u).ev = none ∧ t.busy = true ∧
        unitField t.sta = u ∧ (t.unit u).ev ≠ none)

/-- R23: the read/write field of status A changes only by a performed group-2 load and by reset. -/
def Obligations.ReadWriteFieldChangesOnlyByLoads : Prop :=
  ∀ (s t : State) (i : Nat), step s = .next t → 9 ≤ i → bit t.sta i ≠ bit s.sta i →
    (∃ rest, s.host = .reset :: rest) ∨
      (s.nothingDue ∧ s.busy = false ∧ ∃ c v rest, s.host = .command c v :: rest ∧ c.getLsbD 6 = true ∧ c.getLsbD 2 = true)

/-- R266, R270: while busy and with no completion due, no call but reset changes `da`, `ma`, `wc` or the read/write field. -/
def Obligations.RegistersAreFrozenWhileBusy : Prop :=
  ∀ s t : State, s.busy = true → s.nothingDue → (∀ rest, s.host ≠ .reset :: rest) → step s = .next t →
    SameRegs s t ∧ ∀ i, 9 ≤ i → bit t.sta i = bit s.sta i

/-- R189 (b): system memory changes only at the host's own write, and inside the words a READ or RDALL transfers. -/
def Obligations.MemoryChangesOnlyByReadsAndTheHost : Prop :=
  ∀ (s t : State) (a : Nat), s.mem.wf → step s = .next t → readWord t.mem a ≠ readWord s.mem a →
    (∃ v rest, s.host = .poke a v :: rest) ∨
      ∃ u, TransferReady s u ∧
        ((s.unit u).func.code = .read ∨ (s.unit u).func.code = .rdall ∧ s.cfg.allMode = .asPlain) ∧
        s.ma.toNat ≤ a ∧ a < s.ma.toNat + moved s

/-- R189 (b): a unit's store changes only at its attach, and inside the sectors its WRITE or WRALL fills. That a detach leaves
the words of the unit's store as they are is the model's choice (log 18). -/
def Obligations.StoresChangeOnlyByWritesAndAttach : Prop :=
  ∀ (s t : State) (u : UnitNo) (a : Nat), (s.unit u).store.wf → step s = .next t →
    readWord (t.unit u).store a ≠ readWord (s.unit u).store a →
    (∃ i rest, s.host = .attach u i :: rest) ∨
      (TransferReady s u ∧ Writable s u ∧
        ((s.unit u).func.code = .write ∨ (s.unit u).func.code = .wrall ∧ s.cfg.allMode = .asPlain) ∧
        offsetOf s.da ≤ a ∧ a < offsetOf s.da + (moved s + 255) / 256 * 256)

/-- R139, R173: DON is set only by the completion of a data function. -/
def Obligations.DoneIsSetOnlyByDataFunctions : Prop :=
  ∀ s t : State, step s = .next t → bit s.sta 1 = false → bit t.sta 1 = true →
    ∃ u, (s.unit u).ev = some 0 ∧ (s.unit u).func.second = false ∧
      (s.unit u).func.code ∈ [.read, .write, .rdall, .wrall, .wrchk]

/-- R212, R214: an event comes due only by a tick that it has one tick left for; no operation completes in the step that
starts it. -/
def Obligations.EventsComeDueOnlyByTicks : Prop :=
  ∀ (s t : State) (u : UnitNo), s.cfg.wf → step s = .next t → (t.unit u).ev = some 0 →
    (s.unit u).ev = some 0 ∨ (s.nothingDue ∧ (s.unit u).ev = some 1 ∧ ∃ rest, s.host = .tick :: rest)

/-- R5, R181, U1: no step changes the parameters; the storage-fault draw is what the host's call makes it (log 6) and changes
by that call only; the refusal mark is never cleared (log 15), and only a refused command or completion sets it (R97, R170,
R224; log 13). -/
def Obligations.ParametersDrawAndRefusalMark : Prop :=
  (∀ (s : State) (b : Bool) (rest : List HostCall), s.host = .storageFault b :: rest →
    step s = .next { s with host := rest, ioFault := b }) ∧
  ∀ s t : State, step s = .next t → t.cfg = s.cfg ∧
    (t.ioFault ≠ s.ioFault → ∃ b rest, s.host = .storageFault b :: rest) ∧
    (s.refused = true → t.refused = true) ∧
    (t.refused ≠ s.refused →
      (s.nothingDue ∧ s.cfg.g2S0Load = .refuse ∧ ∃ c v rest, s.host = .command c v :: rest ∧ reservedCode c) ∨
        (∃ u rest, s.host = .eventFired u :: rest ∧ (s.unit u).ev ≠ some 0) ∨
        ∃ u, (s.unit u).ev = some 0 ∧ (s.unit u).func.second = true ∧ (s.unit u).func.code ≠ .seek)
end

