-- ==== Sys2Proof/Laws/State.lean ====
section
/-! SUPPORT. One lemma per field per update of State (Machine/Ops.lean), each true by rfl. -/

namespace Sys2Proof.Machine

variable (s : State)

/-! ### Units -/

theorem unit_setUnit (u v : UnitNo) (d : Drive) : (s.setUnit u d).unit v = if u = v then d else s.unit v := by
  simp only [State.unit, State.setUnit, Fin.getElem_fin, Vector.getElem_set, Fin.ext_iff]

@[simp] theorem unit_setUnit_self (u : UnitNo) (d : Drive) : (s.setUnit u d).unit u = d := by
  simp [unit_setUnit]

@[simp] theorem unit_setUnit_other {u v : UnitNo} (d : Drive) (h : u ≠ v) : (s.setUnit u d).unit v = s.unit v := by
  simp [unit_setUnit, h]

theorem unit_unschedule (u v : UnitNo) :
    (s.unschedule u).unit v = if u = v then { s.unit u with ev := none } else s.unit v :=
  unit_setUnit s u v _

/-- Two states with the same units have the same unit records. -/
theorem unit_congr {s t : State} (h : s.units = t.units) (u : UnitNo) : s.unit u = t.unit u := by
  simp only [State.unit, h]

/-- Unit records of a state whose units are mapped. -/
theorem unit_map (f : Drive → Drive) (u : UnitNo) : { s with units := s.mapUnits f }.unit u = f (s.unit u) := by
  fin_cases u <;> rfl

/-! ### setUnit -/

@[simp] theorem setUnit_sta (u : UnitNo) (d : Drive) : (s.setUnit u d).sta = s.sta := rfl
@[simp] theorem setUnit_stb (u : UnitNo) (d : Drive) : (s.setUnit u d).stb = s.stb := rfl
@[simp] theorem setUnit_da (u : UnitNo) (d : Drive) : (s.setUnit u d).da = s.da := rfl
@[simp] theorem setUnit_ma (u : UnitNo) (d : Drive) : (s.setUnit u d).ma = s.ma := rfl
@[simp] theorem setUnit_wc (u : UnitNo) (d : Drive) : (s.setUnit u d).wc = s.wc := rfl
@[simp] theorem setUnit_busy (u : UnitNo) (d : Drive) : (s.setUnit u d).busy = s.busy := rfl
@[simp] theorem setUnit_irq (u : UnitNo) (d : Drive) : (s.setUnit u d).irq = s.irq := rfl
@[simp] theorem setUnit_units (u : UnitNo) (d : Drive) : (s.setUnit u d).units = s.units.set u d := rfl
@[simp] theorem setUnit_mem (u : UnitNo) (d : Drive) : (s.setUnit u d).mem = s.mem := rfl
@[simp] theorem setUnit_reply (u : UnitNo) (d : Drive) : (s.setUnit u d).reply = s.reply := rfl
@[simp] theorem setUnit_effects (u : UnitNo) (d : Drive) : (s.setUnit u d).effects = s.effects := rfl
@[simp] theorem setUnit_refused (u : UnitNo) (d : Drive) : (s.setUnit u d).refused = s.refused := rfl
@[simp] theorem setUnit_cfg (u : UnitNo) (d : Drive) : (s.setUnit u d).cfg = s.cfg := rfl
@[simp] theorem setUnit_host (u : UnitNo) (d : Drive) : (s.setUnit u d).host = s.host := rfl
@[simp] theorem setUnit_ioFault (u : UnitNo) (d : Drive) : (s.setUnit u d).ioFault = s.ioFault := rfl
@[simp] theorem setUnit_draws (u : UnitNo) (d : Drive) : (s.setUnit u d).draws = s.draws := rfl

/-! ### unschedule -/

@[simp] theorem unschedule_sta (u : UnitNo) : (s.unschedule u).sta = s.sta := rfl
@[simp] theorem unschedule_stb (u : UnitNo) : (s.unschedule u).stb = s.stb := rfl
@[simp] theorem unschedule_da (u : UnitNo) : (s.unschedule u).da = s.da := rfl
@[simp] theorem unschedule_ma (u : UnitNo) : (s.unschedule u).ma = s.ma := rfl
@[simp] theorem unschedule_wc (u : UnitNo) : (s.unschedule u).wc = s.wc := rfl
@[simp] theorem unschedule_busy (u : UnitNo) : (s.unschedule u).busy = s.busy := rfl
@[simp] theorem unschedule_irq (u : UnitNo) : (s.unschedule u).irq = s.irq := rfl
@[simp] theorem unschedule_units (u : UnitNo) : (s.unschedule u).units = s.units.set u { s.unit u with ev := none } := rfl
@[simp] theorem unschedule_mem (u : UnitNo) : (s.unschedule u).mem = s.mem := rfl
@[simp] theorem unschedule_reply (u : UnitNo) : (s.unschedule u).reply = s.reply := rfl
@[simp] theorem unschedule_effects (u : UnitNo) : (s.unschedule u).effects = s.effects := rfl
@[simp] theorem unschedule_refused (u : UnitNo) : (s.unschedule u).refused = s.refused := rfl
@[simp] theorem unschedule_cfg (u : UnitNo) : (s.unschedule u).cfg = s.cfg := rfl
@[simp] theorem unschedule_host (u : UnitNo) : (s.unschedule u).host = s.host := rfl
@[simp] theorem unschedule_ioFault (u : UnitNo) : (s.unschedule u).ioFault = s.ioFault := rfl
@[simp] theorem unschedule_draws (u : UnitNo) : (s.unschedule u).draws = s.draws := rfl

/-! ### raise -/

@[simp] theorem raise_sta (e : Effect) : (s.raise e).sta = s.sta := rfl
@[simp] theorem raise_stb (e : Effect) : (s.raise e).stb = s.stb := rfl
@[simp] theorem raise_da (e : Effect) : (s.raise e).da = s.da := rfl
@[simp] theorem raise_ma (e : Effect) : (s.raise e).ma = s.ma := rfl
@[simp] theorem raise_wc (e : Effect) : (s.raise e).wc = s.wc := rfl
@[simp] theorem raise_busy (e : Effect) : (s.raise e).busy = s.busy := rfl
@[simp] theorem raise_irq (e : Effect) : (s.raise e).irq = s.irq := rfl
@[simp] theorem raise_units (e : Effect) : (s.raise e).units = s.units := rfl
@[simp] theorem raise_mem (e : Effect) : (s.raise e).mem = s.mem := rfl
@[simp] theorem raise_reply (e : Effect) : (s.raise e).reply = s.reply := rfl
@[simp] theorem raise_effects (e : Effect) : (s.raise e).effects = s.effects ++ [e] := rfl
@[simp] theorem raise_refused (e : Effect) : (s.raise e).refused = s.refused := rfl
@[simp] theorem raise_cfg (e : Effect) : (s.raise e).cfg = s.cfg := rfl
@[simp] theorem raise_host (e : Effect) : (s.raise e).host = s.host := rfl
@[simp] theorem raise_ioFault (e : Effect) : (s.raise e).ioFault = s.ioFault := rfl
@[simp] theorem raise_draws (e : Effect) : (s.raise e).draws = s.draws := rfl
@[simp] theorem raise_unit (e : Effect) (v : UnitNo) : (s.raise e).unit v = s.unit v := rfl

/-! ### answer -/

@[simp] theorem answer_sta (r : Reply) : (s.answer r).sta = s.sta := rfl
@[simp] theorem answer_stb (r : Reply) : (s.answer r).stb = s.stb := rfl
@[simp] theorem answer_da (r : Reply) : (s.answer r).da = s.da := rfl
@[simp] theorem answer_ma (r : Reply) : (s.answer r).ma = s.ma := rfl
@[simp] theorem answer_wc (r : Reply) : (s.answer r).wc = s.wc := rfl
@[simp] theorem answer_busy (r : Reply) : (s.answer r).busy = s.busy := rfl
@[simp] theorem answer_irq (r : Reply) : (s.answer r).irq = s.irq := rfl
@[simp] theorem answer_units (r : Reply) : (s.answer r).units = s.units := rfl
@[simp] theorem answer_mem (r : Reply) : (s.answer r).mem = s.mem := rfl
@[simp] theorem answer_reply (r : Reply) : (s.answer r).reply = r := rfl
@[simp] theorem answer_effects (r : Reply) : (s.answer r).effects = s.effects := rfl
@[simp] theorem answer_refused (r : Reply) : (s.answer r).refused = s.refused := rfl
@[simp] theorem answer_cfg (r : Reply) : (s.answer r).cfg = s.cfg := rfl
@[simp] theorem answer_host (r : Reply) : (s.answer r).host = s.host := rfl
@[simp] theorem answer_ioFault (r : Reply) : (s.answer r).ioFault = s.ioFault := rfl
@[simp] theorem answer_draws (r : Reply) : (s.answer r).draws = s.draws := rfl
@[simp] theorem answer_unit (r : Reply) (v : UnitNo) : (s.answer r).unit v = s.unit v := rfl

/-! ### orSta -/

@[simp] theorem orSta_sta (m : Word) : (s.orSta m).sta = s.sta ||| m := rfl
@[simp] theorem orSta_stb (m : Word) : (s.orSta m).stb = s.stb := rfl
@[simp] theorem orSta_da (m : Word) : (s.orSta m).da = s.da := rfl
@[simp] theorem orSta_ma (m : Word) : (s.orSta m).ma = s.ma := rfl
@[simp] theorem orSta_wc (m : Word) : (s.orSta m).wc = s.wc := rfl
@[simp] theorem orSta_busy (m : Word) : (s.orSta m).busy = s.busy := rfl
@[simp] theorem orSta_irq (m : Word) : (s.orSta m).irq = s.irq := rfl
@[simp] theorem orSta_units (m : Word) : (s.orSta m).units = s.units := rfl
@[simp] theorem orSta_mem (m : Word) : (s.orSta m).mem = s.mem := rfl
@[simp] theorem orSta_reply (m : Word) : (s.orSta m).reply = s.reply := rfl
@[simp] theorem orSta_effects (m : Word) : (s.orSta m).effects = s.effects := rfl
@[simp] theorem orSta_refused (m : Word) : (s.orSta m).refused = s.refused := rfl
@[simp] theorem orSta_cfg (m : Word) : (s.orSta m).cfg = s.cfg := rfl
@[simp] theorem orSta_host (m : Word) : (s.orSta m).host = s.host := rfl
@[simp] theorem orSta_ioFault (m : Word) : (s.orSta m).ioFault = s.ioFault := rfl
@[simp] theorem orSta_draws (m : Word) : (s.orSta m).draws = s.draws := rfl
@[simp] theorem orSta_unit (m : Word) (v : UnitNo) : (s.orSta m).unit v = s.unit v := rfl

/-! ### clearSta -/

@[simp] theorem clearSta_sta (m : Word) : (s.clearSta m).sta = s.sta &&& ~~~m := rfl
@[simp] theorem clearSta_stb (m : Word) : (s.clearSta m).stb = s.stb := rfl
@[simp] theorem clearSta_da (m : Word) : (s.clearSta m).da = s.da := rfl
@[simp] theorem clearSta_ma (m : Word) : (s.clearSta m).ma = s.ma := rfl
@[simp] theorem clearSta_wc (m : Word) : (s.clearSta m).wc = s.wc := rfl
@[simp] theorem clearSta_busy (m : Word) : (s.clearSta m).busy = s.busy := rfl
@[simp] theorem clearSta_irq (m : Word) : (s.clearSta m).irq = s.irq := rfl
@[simp] theorem clearSta_units (m : Word) : (s.clearSta m).units = s.units := rfl
@[simp] theorem clearSta_mem (m : Word) : (s.clearSta m).mem = s.mem := rfl
@[simp] theorem clearSta_reply (m : Word) : (s.clearSta m).reply = s.reply := rfl
@[simp] theorem clearSta_effects (m : Word) : (s.clearSta m).effects = s.effects := rfl
@[simp] theorem clearSta_refused (m : Word) : (s.clearSta m).refused = s.refused := rfl
@[simp] theorem clearSta_cfg (m : Word) : (s.clearSta m).cfg = s.cfg := rfl
@[simp] theorem clearSta_host (m : Word) : (s.clearSta m).host = s.host := rfl
@[simp] theorem clearSta_ioFault (m : Word) : (s.clearSta m).ioFault = s.ioFault := rfl
@[simp] theorem clearSta_draws (m : Word) : (s.clearSta m).draws = s.draws := rfl
@[simp] theorem clearSta_unit (m : Word) (v : UnitNo) : (s.clearSta m).unit v = s.unit v := rfl

/-! ### orStb -/

@[simp] theorem orStb_sta (m : Word) : (s.orStb m).sta = s.sta := rfl
@[simp] theorem orStb_stb (m : Word) : (s.orStb m).stb = s.stb ||| m := rfl
@[simp] theorem orStb_da (m : Word) : (s.orStb m).da = s.da := rfl
@[simp] theorem orStb_ma (m : Word) : (s.orStb m).ma = s.ma := rfl
@[simp] theorem orStb_wc (m : Word) : (s.orStb m).wc = s.wc := rfl
@[simp] theorem orStb_busy (m : Word) : (s.orStb m).busy = s.busy := rfl
@[simp] theorem orStb_irq (m : Word) : (s.orStb m).irq = s.irq := rfl
@[simp] theorem orStb_units (m : Word) : (s.orStb m).units = s.units := rfl
@[simp] theorem orStb_mem (m : Word) : (s.orStb m).mem = s.mem := rfl
@[simp] theorem orStb_reply (m : Word) : (s.orStb m).reply = s.reply := rfl
@[simp] theorem orStb_effects (m : Word) : (s.orStb m).effects = s.effects := rfl
@[simp] theorem orStb_refused (m : Word) : (s.orStb m).refused = s.refused := rfl
@[simp] theorem orStb_cfg (m : Word) : (s.orStb m).cfg = s.cfg := rfl
@[simp] theorem orStb_host (m : Word) : (s.orStb m).host = s.host := rfl
@[simp] theorem orStb_ioFault (m : Word) : (s.orStb m).ioFault = s.ioFault := rfl
@[simp] theorem orStb_draws (m : Word) : (s.orStb m).draws = s.draws := rfl
@[simp] theorem orStb_unit (m : Word) (v : UnitNo) : (s.orStb m).unit v = s.unit v := rfl

/-! ### clearStb -/

@[simp] theorem clearStb_sta (m : Word) : (s.clearStb m).sta = s.sta := rfl
@[simp] theorem clearStb_stb (m : Word) : (s.clearStb m).stb = s.stb &&& ~~~m := rfl
@[simp] theorem clearStb_da (m : Word) : (s.clearStb m).da = s.da := rfl
@[simp] theorem clearStb_ma (m : Word) : (s.clearStb m).ma = s.ma := rfl
@[simp] theorem clearStb_wc (m : Word) : (s.clearStb m).wc = s.wc := rfl
@[simp] theorem clearStb_busy (m : Word) : (s.clearStb m).busy = s.busy := rfl
@[simp] theorem clearStb_irq (m : Word) : (s.clearStb m).irq = s.irq := rfl
@[simp] theorem clearStb_units (m : Word) : (s.clearStb m).units = s.units := rfl
@[simp] theorem clearStb_mem (m : Word) : (s.clearStb m).mem = s.mem := rfl
@[simp] theorem clearStb_reply (m : Word) : (s.clearStb m).reply = s.reply := rfl
@[simp] theorem clearStb_effects (m : Word) : (s.clearStb m).effects = s.effects := rfl
@[simp] theorem clearStb_refused (m : Word) : (s.clearStb m).refused = s.refused := rfl
@[simp] theorem clearStb_cfg (m : Word) : (s.clearStb m).cfg = s.cfg := rfl
@[simp] theorem clearStb_host (m : Word) : (s.clearStb m).host = s.host := rfl
@[simp] theorem clearStb_ioFault (m : Word) : (s.clearStb m).ioFault = s.ioFault := rfl
@[simp] theorem clearStb_draws (m : Word) : (s.clearStb m).draws = s.draws := rfl
@[simp] theorem clearStb_unit (m : Word) (v : UnitNo) : (s.clearStb m).unit v = s.unit v := rfl

/-! ### refuse -/

@[simp] theorem refuse_sta : s.refuse.sta = s.sta := rfl
@[simp] theorem refuse_stb : s.refuse.stb = s.stb := rfl
@[simp] theorem refuse_da : s.refuse.da = s.da := rfl
@[simp] theorem refuse_ma : s.refuse.ma = s.ma := rfl
@[simp] theorem refuse_wc : s.refuse.wc = s.wc := rfl
@[simp] theorem refuse_busy : s.refuse.busy = s.busy := rfl
@[simp] theorem refuse_irq : s.refuse.irq = s.irq := rfl
@[simp] theorem refuse_units : s.refuse.units = s.units := rfl
@[simp] theorem refuse_mem : s.refuse.mem = s.mem := rfl
@[simp] theorem refuse_reply : s.refuse.reply = s.reply := rfl
@[simp] theorem refuse_effects : s.refuse.effects = s.effects := rfl
@[simp] theorem refuse_refused : s.refuse.refused = true := rfl
@[simp] theorem refuse_cfg : s.refuse.cfg = s.cfg := rfl
@[simp] theorem refuse_host : s.refuse.host = s.host := rfl
@[simp] theorem refuse_ioFault : s.refuse.ioFault = s.ioFault := rfl
@[simp] theorem refuse_draws : s.refuse.draws = s.draws := rfl
@[simp] theorem refuse_unit (v : UnitNo) : s.refuse.unit v = s.unit v := rfl

/-! ### drawn -/

@[simp] theorem drawn_sta (n : Nat) : (s.drawn n).sta = s.sta := rfl
@[simp] theorem drawn_stb (n : Nat) : (s.drawn n).stb = s.stb := rfl
@[simp] theorem drawn_da (n : Nat) : (s.drawn n).da = s.da := rfl
@[simp] theorem drawn_ma (n : Nat) : (s.drawn n).ma = s.ma := rfl
@[simp] theorem drawn_wc (n : Nat) : (s.drawn n).wc = s.wc := rfl
@[simp] theorem drawn_busy (n : Nat) : (s.drawn n).busy = s.busy := rfl
@[simp] theorem drawn_irq (n : Nat) : (s.drawn n).irq = s.irq := rfl
@[simp] theorem drawn_units (n : Nat) : (s.drawn n).units = s.units := rfl
@[simp] theorem drawn_mem (n : Nat) : (s.drawn n).mem = s.mem := rfl
@[simp] theorem drawn_reply (n : Nat) : (s.drawn n).reply = s.reply := rfl
@[simp] theorem drawn_effects (n : Nat) : (s.drawn n).effects = s.effects := rfl
@[simp] theorem drawn_refused (n : Nat) : (s.drawn n).refused = s.refused := rfl
@[simp] theorem drawn_cfg (n : Nat) : (s.drawn n).cfg = s.cfg := rfl
@[simp] theorem drawn_host (n : Nat) : (s.drawn n).host = s.host := rfl
@[simp] theorem drawn_ioFault (n : Nat) : (s.drawn n).ioFault = s.ioFault := rfl
@[simp] theorem drawn_draws (n : Nat) : (s.drawn n).draws = s.draws + n := rfl
@[simp] theorem drawn_unit (n : Nat) (v : UnitNo) : (s.drawn n).unit v = s.unit v := rfl

end Sys2Proof.Machine
end

