-- ==== Sys2Proof/Laws/Status.lean ====
section
/-! SUPPORT. The masks bit by bit, and what the status model does (10_state.md R22 to R28, 40_status_model.md R110 to R118). -/

namespace Sys2Proof.Machine

/-! ### Bits of masks -/

/-- Two words that agree in bits 0 to 17 agree in every bit, a bit past 17 being false. -/
theorem getLsbD_eq_of_lt {w : Word} {f : Nat → Bool} (h : ∀ i, i < 18 → w.getLsbD i = f i)
    (hf : ∀ i, 18 ≤ i → f i = false) (i : Nat) : w.getLsbD i = f i := by
  by_cases hi : i < 18
  · exact h i hi
  · rw [hf i (by omega)]
    exact BitVec.getLsbD_of_ge w i (by omega)

@[simp] theorem getLsbD_IED (i : Nat) : IED.getLsbD i = decide (i = 11) :=
  getLsbD_eq_of_lt (f := fun i => decide (i = 11)) (by decide) (by simp; omega) i
@[simp] theorem getLsbD_IEA (i : Nat) : IEA.getLsbD i = decide (i = 10) :=
  getLsbD_eq_of_lt (f := fun i => decide (i = 10)) (by decide) (by simp; omega) i
@[simp] theorem getLsbD_GO (i : Nat) : GO.getLsbD i = decide (i = 9) :=
  getLsbD_eq_of_lt (f := fun i => decide (i = 9)) (by decide) (by simp; omega) i
@[simp] theorem getLsbD_WLE (i : Nat) : WLE.getLsbD i = decide (i = 8) :=
  getLsbD_eq_of_lt (f := fun i => decide (i = 8)) (by decide) (by simp; omega) i
@[simp] theorem getLsbD_NXC (i : Nat) : NXC.getLsbD i = decide (i = 7) :=
  getLsbD_eq_of_lt (f := fun i => decide (i = 7)) (by decide) (by simp; omega) i
@[simp] theorem getLsbD_NXF (i : Nat) : NXF.getLsbD i = decide (i = 6) :=
  getLsbD_eq_of_lt (f := fun i => decide (i = 6)) (by decide) (by simp; omega) i
@[simp] theorem getLsbD_NXS (i : Nat) : NXS.getLsbD i = decide (i = 5) :=
  getLsbD_eq_of_lt (f := fun i => decide (i = 5)) (by decide) (by simp; omega) i
@[simp] theorem getLsbD_HNF (i : Nat) : HNF.getLsbD i = decide (i = 4) :=
  getLsbD_eq_of_lt (f := fun i => decide (i = 4)) (by decide) (by simp; omega) i
@[simp] theorem getLsbD_SUWP (i : Nat) : SUWP.getLsbD i = decide (i = 3) :=
  getLsbD_eq_of_lt (f := fun i => decide (i = 3)) (by decide) (by simp; omega) i
@[simp] theorem getLsbD_SUSI (i : Nat) : SUSI.getLsbD i = decide (i = 2) :=
  getLsbD_eq_of_lt (f := fun i => decide (i = 2)) (by decide) (by simp; omega) i
@[simp] theorem getLsbD_DON (i : Nat) : DON.getLsbD i = decide (i = 1) :=
  getLsbD_eq_of_lt (f := fun i => decide (i = 1)) (by decide) (by simp; omega) i
@[simp] theorem getLsbD_ERR (i : Nat) : ERR.getLsbD i = decide (i = 0) :=
  getLsbD_eq_of_lt (f := fun i => decide (i = 0)) (by decide) (by simp; omega) i
@[simp] theorem getLsbD_SUFU (i : Nat) : SUFU.getLsbD i = decide (i = 9) :=
  getLsbD_eq_of_lt (f := fun i => decide (i = 9)) (by decide) (by simp; omega) i
@[simp] theorem getLsbD_PGE (i : Nat) : PGE.getLsbD i = decide (i = 8) :=
  getLsbD_eq_of_lt (f := fun i => decide (i = 8)) (by decide) (by simp; omega) i
@[simp] theorem getLsbD_EOP (i : Nat) : EOP.getLsbD i = decide (i = 7) :=
  getLsbD_eq_of_lt (f := fun i => decide (i = 7)) (by decide) (by simp; omega) i
@[simp] theorem getLsbD_TME (i : Nat) : TME.getLsbD i = decide (i = 6) :=
  getLsbD_eq_of_lt (f := fun i => decide (i = 6)) (by decide) (by simp; omega) i
@[simp] theorem getLsbD_FME (i : Nat) : FME.getLsbD i = decide (i = 5) :=
  getLsbD_eq_of_lt (f := fun i => decide (i = 5)) (by decide) (by simp; omega) i
@[simp] theorem getLsbD_WCE (i : Nat) : WCE.getLsbD i = decide (i = 4) :=
  getLsbD_eq_of_lt (f := fun i => decide (i = 4)) (by decide) (by simp; omega) i
@[simp] theorem getLsbD_WPE (i : Nat) : WPE.getLsbD i = decide (i = 3) :=
  getLsbD_eq_of_lt (f := fun i => decide (i = 3)) (by decide) (by simp; omega) i
@[simp] theorem getLsbD_LON (i : Nat) : LON.getLsbD i = decide (i = 2) :=
  getLsbD_eq_of_lt (f := fun i => decide (i = 2)) (by decide) (by simp; omega) i
@[simp] theorem getLsbD_SUSU (i : Nat) : SUSU.getLsbD i = decide (i = 1) :=
  getLsbD_eq_of_lt (f := fun i => decide (i = 1)) (by decide) (by simp; omega) i
@[simp] theorem getLsbD_SUNR (i : Nat) : SUNR.getLsbD i = decide (i = 0) :=
  getLsbD_eq_of_lt (f := fun i => decide (i = 0)) (by decide) (by simp; omega) i
@[simp] theorem getLsbD_RW (i : Nat) : RW.getLsbD i = decide (9 ≤ i ∧ i < 18) :=
  getLsbD_eq_of_lt (f := fun i => decide (9 ≤ i ∧ i < 18)) (by decide) (by simp; omega) i
@[simp] theorem getLsbD_DYN_A (i : Nat) : DYN_A.getLsbD i = decide (i = 3 ∨ i = 2) :=
  getLsbD_eq_of_lt (f := fun i => decide (i = 3 ∨ i = 2)) (by decide) (by simp; omega) i
@[simp] theorem getLsbD_EFLAGS_A (i : Nat) : EFLAGS_A.getLsbD i = decide (i = 8 ∨ i = 7 ∨ i = 6 ∨ i = 5 ∨ i = 4 ∨ i = 2) :=
  getLsbD_eq_of_lt (f := fun i => decide (i = 8 ∨ i = 7 ∨ i = 6 ∨ i = 5 ∨ i = 4 ∨ i = 2)) (by decide) (by simp; omega) i
@[simp] theorem getLsbD_ATTN_ALL (i : Nat) : ATTN_ALL.getLsbD i = decide (10 ≤ i ∧ i < 18) :=
  getLsbD_eq_of_lt (f := fun i => decide (10 ≤ i ∧ i < 18)) (by decide) (by simp; omega) i
@[simp] theorem getLsbD_DYN_B (i : Nat) : DYN_B.getLsbD i = decide (i = 9 ∨ i = 1 ∨ i = 0) :=
  getLsbD_eq_of_lt (f := fun i => decide (i = 9 ∨ i = 1 ∨ i = 0)) (by decide) (by simp; omega) i
@[simp] theorem getLsbD_EFLAGS_B (i : Nat) : EFLAGS_B.getLsbD i = decide (2 ≤ i ∧ i < 10) :=
  getLsbD_eq_of_lt (f := fun i => decide (2 ≤ i ∧ i < 10)) (by decide) (by simp; omega) i
@[simp] theorem getLsbD_STICKY_B (i : Nat) : STICKY_B.getLsbD i = decide (2 ≤ i ∧ i < 9) :=
  getLsbD_eq_of_lt (f := fun i => decide (2 ≤ i ∧ i < 9)) (by decide) (by simp; omega) i

/-- `ATTN(u)` is bit 17 − u (R25). -/
@[simp] theorem getLsbD_ATTN (u : UnitNo) (i : Nat) : (ATTN u).getLsbD i = decide (i = 17 - u.val) := by
  have h : ∀ u : UnitNo, ∀ i, i < 18 → (ATTN u).getLsbD i = decide (i = 17 - u.val) := by decide
  exact getLsbD_eq_of_lt (f := fun i => decide (i = 17 - u.val)) (h u) (by simp; omega) i

/-! The same with the index in range. -/

@[simp] theorem getElem_IED (i : Nat) (h : i < 18) : IED[i] = decide (i = 11) :=
  getLsbD_IED i
@[simp] theorem getElem_IEA (i : Nat) (h : i < 18) : IEA[i] = decide (i = 10) :=
  getLsbD_IEA i
@[simp] theorem getElem_GO (i : Nat) (h : i < 18) : GO[i] = decide (i = 9) :=
  getLsbD_GO i
@[simp] theorem getElem_WLE (i : Nat) (h : i < 18) : WLE[i] = decide (i = 8) :=
  getLsbD_WLE i
@[simp] theorem getElem_NXC (i : Nat) (h : i < 18) : NXC[i] = decide (i = 7) :=
  getLsbD_NXC i
@[simp] theorem getElem_NXF (i : Nat) (h : i < 18) : NXF[i] = decide (i = 6) :=
  getLsbD_NXF i
@[simp] theorem getElem_NXS (i : Nat) (h : i < 18) : NXS[i] = decide (i = 5) :=
  getLsbD_NXS i
@[simp] theorem getElem_HNF (i : Nat) (h : i < 18) : HNF[i] = decide (i = 4) :=
  getLsbD_HNF i
@[simp] theorem getElem_SUWP (i : Nat) (h : i < 18) : SUWP[i] = decide (i = 3) :=
  getLsbD_SUWP i
@[simp] theorem getElem_SUSI (i : Nat) (h : i < 18) : SUSI[i] = decide (i = 2) :=
  getLsbD_SUSI i
@[simp] theorem getElem_DON (i : Nat) (h : i < 18) : DON[i] = decide (i = 1) :=
  getLsbD_DON i
@[simp] theorem getElem_ERR (i : Nat) (h : i < 18) : ERR[i] = decide (i = 0) :=
  getLsbD_ERR i
@[simp] theorem getElem_SUFU (i : Nat) (h : i < 18) : SUFU[i] = decide (i = 9) :=
  getLsbD_SUFU i
@[simp] theorem getElem_PGE (i : Nat) (h : i < 18) : PGE[i] = decide (i = 8) :=
  getLsbD_PGE i
@[simp] theorem getElem_EOP (i : Nat) (h : i < 18) : EOP[i] = decide (i = 7) :=
  getLsbD_EOP i
@[simp] theorem getElem_TME (i : Nat) (h : i < 18) : TME[i] = decide (i = 6) :=
  getLsbD_TME i
@[simp] theorem getElem_FME (i : Nat) (h : i < 18) : FME[i] = decide (i = 5) :=
  getLsbD_FME i
@[simp] theorem getElem_WCE (i : Nat) (h : i < 18) : WCE[i] = decide (i = 4) :=
  getLsbD_WCE i
@[simp] theorem getElem_WPE (i : Nat) (h : i < 18) : WPE[i] = decide (i = 3) :=
  getLsbD_WPE i
@[simp] theorem getElem_LON (i : Nat) (h : i < 18) : LON[i] = decide (i = 2) :=
  getLsbD_LON i
@[simp] theorem getElem_SUSU (i : Nat) (h : i < 18) : SUSU[i] = decide (i = 1) :=
  getLsbD_SUSU i
@[simp] theorem getElem_SUNR (i : Nat) (h : i < 18) : SUNR[i] = decide (i = 0) :=
  getLsbD_SUNR i
@[simp] theorem getElem_RW (i : Nat) (h : i < 18) : RW[i] = decide (9 ≤ i ∧ i < 18) :=
  getLsbD_RW i
@[simp] theorem getElem_DYN_A (i : Nat) (h : i < 18) : DYN_A[i] = decide (i = 3 ∨ i = 2) :=
  getLsbD_DYN_A i
@[simp] theorem getElem_EFLAGS_A (i : Nat) (h : i < 18) : EFLAGS_A[i] = decide (i = 8 ∨ i = 7 ∨ i = 6 ∨ i = 5 ∨ i = 4 ∨ i = 2) :=
  getLsbD_EFLAGS_A i
@[simp] theorem getElem_ATTN_ALL (i : Nat) (h : i < 18) : ATTN_ALL[i] = decide (10 ≤ i ∧ i < 18) :=
  getLsbD_ATTN_ALL i
@[simp] theorem getElem_DYN_B (i : Nat) (h : i < 18) : DYN_B[i] = decide (i = 9 ∨ i = 1 ∨ i = 0) :=
  getLsbD_DYN_B i
@[simp] theorem getElem_EFLAGS_B (i : Nat) (h : i < 18) : EFLAGS_B[i] = decide (2 ≤ i ∧ i < 10) :=
  getLsbD_EFLAGS_B i
@[simp] theorem getElem_STICKY_B (i : Nat) (h : i < 18) : STICKY_B[i] = decide (2 ≤ i ∧ i < 9) :=
  getLsbD_STICKY_B i
@[simp] theorem getElem_ATTN (u : UnitNo) (i : Nat) (h : i < 18) : (ATTN u)[i] = decide (i = 17 - u.val) :=
  getLsbD_ATTN u i

/-! ### Testing flags -/

/-- A word has a bit of a mask exactly when some bit is in both. -/
theorem hasAny_eq_any (w m : Word) :
    hasAny w m = (List.range 18).any (fun i => w.getLsbD i && m.getLsbD i) := by
  rw [Bool.eq_iff_iff]
  simp only [hasAny, bne_iff_ne, ne_eq, List.any_eq_true, List.mem_range, ← BitVec.getLsbD_and]
  constructor
  · intro h
    by_contra hn
    apply h
    apply BitVec.eq_of_getLsbD_eq
    intro i hi
    simp only [BitVec.ofNat_eq_ofNat, BitVec.getLsbD_zero]
    by_contra hb
    exact hn ⟨i, hi, by simpa using hb⟩
  · rintro ⟨i, _, hb⟩ h
    rw [h] at hb
    simp at hb

theorem hasAny_IED (w : Word) : hasAny w IED = w.getLsbD 11 := by
  simp [hasAny_eq_any, List.range_succ]
theorem hasAny_IEA (w : Word) : hasAny w IEA = w.getLsbD 10 := by
  simp [hasAny_eq_any, List.range_succ]
theorem hasAny_GO (w : Word) : hasAny w GO = w.getLsbD 9 := by
  simp [hasAny_eq_any, List.range_succ]
theorem hasAny_WLE (w : Word) : hasAny w WLE = w.getLsbD 8 := by
  simp [hasAny_eq_any, List.range_succ]
theorem hasAny_NXC (w : Word) : hasAny w NXC = w.getLsbD 7 := by
  simp [hasAny_eq_any, List.range_succ]
theorem hasAny_NXF (w : Word) : hasAny w NXF = w.getLsbD 6 := by
  simp [hasAny_eq_any, List.range_succ]
theorem hasAny_NXS (w : Word) : hasAny w NXS = w.getLsbD 5 := by
  simp [hasAny_eq_any, List.range_succ]
theorem hasAny_HNF (w : Word) : hasAny w HNF = w.getLsbD 4 := by
  simp [hasAny_eq_any, List.range_succ]
theorem hasAny_SUWP (w : Word) : hasAny w SUWP = w.getLsbD 3 := by
  simp [hasAny_eq_any, List.range_succ]
theorem hasAny_SUSI (w : Word) : hasAny w SUSI = w.getLsbD 2 := by
  simp [hasAny_eq_any, List.range_succ]
theorem hasAny_DON (w : Word) : hasAny w DON = w.getLsbD 1 := by
  simp [hasAny_eq_any, List.range_succ]
theorem hasAny_ERR (w : Word) : hasAny w ERR = w.getLsbD 0 := by
  simp [hasAny_eq_any, List.range_succ]
theorem hasAny_SUFU (w : Word) : hasAny w SUFU = w.getLsbD 9 := by
  simp [hasAny_eq_any, List.range_succ]
theorem hasAny_PGE (w : Word) : hasAny w PGE = w.getLsbD 8 := by
  simp [hasAny_eq_any, List.range_succ]
theorem hasAny_EOP (w : Word) : hasAny w EOP = w.getLsbD 7 := by
  simp [hasAny_eq_any, List.range_succ]
theorem hasAny_TME (w : Word) : hasAny w TME = w.getLsbD 6 := by
  simp [hasAny_eq_any, List.range_succ]
theorem hasAny_FME (w : Word) : hasAny w FME = w.getLsbD 5 := by
  simp [hasAny_eq_any, List.range_succ]
theorem hasAny_WCE (w : Word) : hasAny w WCE = w.getLsbD 4 := by
  simp [hasAny_eq_any, List.range_succ]
theorem hasAny_WPE (w : Word) : hasAny w WPE = w.getLsbD 3 := by
  simp [hasAny_eq_any, List.range_succ]
theorem hasAny_LON (w : Word) : hasAny w LON = w.getLsbD 2 := by
  simp [hasAny_eq_any, List.range_succ]
theorem hasAny_SUSU (w : Word) : hasAny w SUSU = w.getLsbD 1 := by
  simp [hasAny_eq_any, List.range_succ]
theorem hasAny_SUNR (w : Word) : hasAny w SUNR = w.getLsbD 0 := by
  simp [hasAny_eq_any, List.range_succ]
theorem hasAny_EFLAGS_A (w : Word) :
    hasAny w EFLAGS_A = (w.getLsbD 2 || w.getLsbD 4 || w.getLsbD 5 || w.getLsbD 6 || w.getLsbD 7 || w.getLsbD 8) := by
  simp [hasAny_eq_any, List.range_succ, Bool.or_assoc]
theorem hasAny_EFLAGS_B (w : Word) :
    hasAny w EFLAGS_B = (w.getLsbD 2 || w.getLsbD 3 || w.getLsbD 4 || w.getLsbD 5 || w.getLsbD 6 || w.getLsbD 7 || w.getLsbD 8 || w.getLsbD 9) := by
  simp [hasAny_eq_any, List.range_succ, Bool.or_assoc]
theorem hasAny_ATTN_ALL (w : Word) :
    hasAny w ATTN_ALL = (w.getLsbD 10 || w.getLsbD 11 || w.getLsbD 12 || w.getLsbD 13 || w.getLsbD 14 || w.getLsbD 15 || w.getLsbD 16 || w.getLsbD 17) := by
  simp [hasAny_eq_any, List.range_succ, Bool.or_assoc]
theorem hasAny_DON_ERR (w : Word) : hasAny w (DON ||| ERR) = (w.getLsbD 0 || w.getLsbD 1) := by
  simp [hasAny_eq_any, List.range_succ]

/-! ### Fields -/

/-- The unit field depends on bits 17:15 only. -/
theorem unitField_congr {w v : Word} (h : ∀ i, 15 ≤ i → i < 18 → w.getLsbD i = v.getLsbD i) :
    unitField w = unitField v := by
  have : w.extractLsb' 15 3 = v.extractLsb' 15 3 := by
    apply BitVec.eq_of_getLsbD_eq
    intro i hi
    simp only [BitVec.getLsbD_extractLsb', hi, decide_true, Bool.true_and]
    exact h (15 + i) (by omega) (by omega)
  simp only [unitField, this]

/-- The function field depends on bits 14:12 only. -/
theorem funcField_congr {w v : Word} (h : ∀ i, 12 ≤ i → i < 15 → w.getLsbD i = v.getLsbD i) :
    funcField w = funcField v := by
  have : w.extractLsb' 12 3 = v.extractLsb' 12 3 := by
    apply BitVec.eq_of_getLsbD_eq
    intro i hi
    simp only [BitVec.getLsbD_extractLsb', hi, decide_true, Bool.true_and]
    exact h (12 + i) (by omega) (by omega)
  simp only [funcField, this]

/-! ### The status model in closed form -/

/-- Status A after step 1 (R111). -/
def mergedA (pa : Word) (s : State) : Word := (s.sta &&& ~~~(DYN_A ||| ERR)) ||| pa

/-- Status B after step 2 (R112). -/
def mergedB (pb : Word) (s : State) : Word := (s.stb &&& ~~~DYN_B) ||| pb

/-- The dynamic flags of status A for unit `u` (R113, R116). -/
def dynamicA (s : State) (u : UnitNo) : Word :=
  (if (s.unit u).wlk then SUWP else 0) |||
    (if (s.unit u).attached = true ∧ s.seeking u = false ∧ CYLINDERS ≤ (s.unit u).cyl.toNat then SUSI else 0)

/-- The dynamic flags of status B for unit `u` (R114, R115). -/
def dynamicB (s : State) (u : UnitNo) : Word :=
  if (s.unit u).attached = false then SUFU ||| SUNR else if s.seeking u then SUSU ||| SUNR else 0

/-- The dynamic flags depend on the units only. -/
theorem dynamicA_congr {s t : State} (h : s.units = t.units) (u : UnitNo) : dynamicA s u = dynamicA t u := by
  have hs : dynamicA s u = dynamicA { t with units := s.units } u := rfl
  rw [hs, h]

theorem dynamicB_congr {s t : State} (h : s.units = t.units) (u : UnitNo) : dynamicB s u = dynamicB t u := by
  have hs : dynamicB s u = dynamicB { t with units := s.units } u := rfl
  rw [hs, h]

/-- ERR as two status words give it (R117). -/
def summaryBit (a b : Word) : Word := if hasAny a EFLAGS_A || hasAny b EFLAGS_B then ERR else 0

theorem reportWriteLock_eq (s : State) :
    reportWriteLock s = s.orSta (if (s.unit s.sel).wlk then SUWP else 0) := by
  unfold reportWriteLock
  split <;> simp [State.orSta]

theorem reportUnit_eq (s : State) :
    reportUnit s =
      (s.orSta (if (s.unit s.sel).attached = true ∧ s.seeking s.sel = false ∧ CYLINDERS ≤ (s.unit s.sel).cyl.toNat
        then SUSI else 0)).orStb (dynamicB s s.sel) := by
  unfold reportUnit dynamicB
  split
  · simp_all [State.orSta]
  · split
    · simp_all [State.orSta]
    · split
      · simp_all [State.orSta, State.orStb]
      · rename_i h
        simp_all only [Bool.not_eq_false, Bool.not_eq_true, and_false, if_false]
        simp [State.orSta, State.orStb]

theorem summariseErrors_eq (s : State) : summariseErrors s = s.orSta (summaryBit s.sta s.stb) := by
  unfold summariseErrors summaryBit
  split <;> simp [State.orSta]

/-- A recompute writes status A, status B and the interrupt level, and nothing else (R110). -/
theorem recompute_eq (pa pb : Word) (s : State) :
    recompute pa pb s =
      { s with
        sta := (mergedA pa s ||| dynamicA s (unitField (mergedA pa s))) |||
          summaryBit (mergedA pa s ||| dynamicA s (unitField (mergedA pa s)))
            (mergedB pb s ||| dynamicB s (unitField (mergedA pa s)))
        stb := mergedB pb s ||| dynamicB s (unitField (mergedA pa s))
        irq := irqLevel
          ((mergedA pa s ||| dynamicA s (unitField (mergedA pa s))) |||
            summaryBit (mergedA pa s ||| dynamicA s (unitField (mergedA pa s)))
              (mergedB pb s ||| dynamicB s (unitField (mergedA pa s))))
          (mergedB pb s ||| dynamicB s (unitField (mergedA pa s))) } := by
  have hsel : ∀ f : Bool, unitField (mergedA pa s ||| (if f then SUWP else 0)) = unitField (mergedA pa s) := by
    intro f
    cases f
    · simp
    · exact unitField_congr fun i h1 h2 => by simp; omega
  have h3 : reportWriteLock (mergeB pb (mergeA pa s)) =
      { s with
        sta := mergedA pa s ||| (if (s.unit (unitField (mergedA pa s))).wlk then SUWP else 0)
        stb := mergedB pb s } := reportWriteLock_eq _
  rw [recompute, h3, reportUnit_eq, summariseErrors_eq]
  simp only [driveIrq, State.orSta, State.orStb, State.sel, hsel]
  simp only [dynamicA, ← BitVec.or_assoc]
  rfl

/-! ### What a recompute leaves alone -/

@[simp] theorem recompute_da (pa pb : Word) (s : State) : (recompute pa pb s).da = s.da := by rw [recompute_eq]
@[simp] theorem recompute_ma (pa pb : Word) (s : State) : (recompute pa pb s).ma = s.ma := by rw [recompute_eq]
@[simp] theorem recompute_wc (pa pb : Word) (s : State) : (recompute pa pb s).wc = s.wc := by rw [recompute_eq]
@[simp] theorem recompute_busy (pa pb : Word) (s : State) : (recompute pa pb s).busy = s.busy := by rw [recompute_eq]
@[simp] theorem recompute_units (pa pb : Word) (s : State) : (recompute pa pb s).units = s.units := by rw [recompute_eq]
@[simp] theorem recompute_mem (pa pb : Word) (s : State) : (recompute pa pb s).mem = s.mem := by rw [recompute_eq]
@[simp] theorem recompute_reply (pa pb : Word) (s : State) : (recompute pa pb s).reply = s.reply := by rw [recompute_eq]
@[simp] theorem recompute_effects (pa pb : Word) (s : State) : (recompute pa pb s).effects = s.effects := by rw [recompute_eq]
@[simp] theorem recompute_cfg (pa pb : Word) (s : State) : (recompute pa pb s).cfg = s.cfg := by rw [recompute_eq]
@[simp] theorem recompute_host (pa pb : Word) (s : State) : (recompute pa pb s).host = s.host := by rw [recompute_eq]
@[simp] theorem recompute_ioFault (pa pb : Word) (s : State) : (recompute pa pb s).ioFault = s.ioFault := by rw [recompute_eq]
@[simp] theorem recompute_refused (pa pb : Word) (s : State) : (recompute pa pb s).refused = s.refused := by
  rw [recompute_eq]
@[simp] theorem recompute_draws (pa pb : Word) (s : State) : (recompute pa pb s).draws = s.draws := by rw [recompute_eq]
@[simp] theorem recompute_unit (pa pb : Word) (s : State) (u : UnitNo) : (recompute pa pb s).unit u = s.unit u :=
  unit_congr (recompute_units pa pb s) u

/-! ### The status model bit by bit -/

/-- A word has a bit of a mask exactly when some bit is in both. -/
theorem hasAny_iff (w m : Word) : hasAny w m = true ↔ ∃ i, w.getLsbD i = true ∧ m.getLsbD i = true := by
  rw [hasAny_eq_any, List.any_eq_true]
  constructor
  · rintro ⟨i, -, hb⟩
    exact ⟨i, by simpa using hb⟩
  · rintro ⟨i, hw, hm⟩
    refine ⟨i, List.mem_range.2 ?_, by simp [hw, hm]⟩
    by_contra hn
    rw [BitVec.getLsbD_of_ge w i (by omega)] at hw
    exact Bool.noConfusion hw

theorem and_ne_zero_iff (w m : Word) : w &&& m ≠ 0 ↔ ∃ i, w.getLsbD i = true ∧ m.getLsbD i = true := by
  rw [← hasAny_iff]
  simp [hasAny]

theorem getLsbD_mergedA (pa : Word) (s : State) (i : Nat) :
    (mergedA pa s).getLsbD i = ((s.sta.getLsbD i && !decide (i = 0 ∨ i = 2 ∨ i = 3)) || pa.getLsbD i) := by
  refine getLsbD_eq_of_lt
    (f := fun i => (s.sta.getLsbD i && !decide (i = 0 ∨ i = 2 ∨ i = 3)) || pa.getLsbD i) (fun i hi => ?_) (fun i hi => ?_) i
  · simp [mergedA, hi]
    grind
  · rw [BitVec.getLsbD_of_ge _ i hi, BitVec.getLsbD_of_ge _ i hi]
    rfl

theorem getLsbD_mergedB (pb : Word) (s : State) (i : Nat) :
    (mergedB pb s).getLsbD i = ((s.stb.getLsbD i && !decide (i = 0 ∨ i = 1 ∨ i = 9)) || pb.getLsbD i) := by
  refine getLsbD_eq_of_lt
    (f := fun i => (s.stb.getLsbD i && !decide (i = 0 ∨ i = 1 ∨ i = 9)) || pb.getLsbD i) (fun i hi => ?_) (fun i hi => ?_) i
  · simp [mergedB, hi]
    grind
  · rw [BitVec.getLsbD_of_ge _ i hi, BitVec.getLsbD_of_ge _ i hi]
    rfl

theorem getLsbD_dynamicA (s : State) (u : UnitNo) (i : Nat) :
    (dynamicA s u).getLsbD i = ((decide (i = 3) && (s.unit u).wlk) ||
      (decide (i = 2) && ((s.unit u).attached && !s.seeking u && decide (CYLINDERS ≤ (s.unit u).cyl.toNat)))) := by
  simp only [dynamicA]
  rw [BitVec.getLsbD_or]
  split <;> split <;> simp_all

theorem getLsbD_dynamicB (s : State) (u : UnitNo) (i : Nat) :
    (dynamicB s u).getLsbD i = ((decide (i = 9) && !(s.unit u).attached) ||
      (decide (i = 1) && ((s.unit u).attached && s.seeking u)) ||
      (decide (i = 0) && (!(s.unit u).attached || s.seeking u))) := by
  simp only [dynamicB]
  split <;> [skip; split] <;> simp_all

theorem getLsbD_summaryBit (a b : Word) (i : Nat) :
    (summaryBit a b).getLsbD i = (decide (i = 0) && (hasAny a EFLAGS_A || hasAny b EFLAGS_B)) := by
  simp only [summaryBit]
  split <;> simp_all

/-- Status A after a recompute, bit by bit (R111, R113, R116, R117). -/
theorem getLsbD_recompute_sta (pa pb : Word) (s : State) (i : Nat) :
    (recompute pa pb s).sta.getLsbD i =
      ((mergedA pa s).getLsbD i || (dynamicA s (unitField (mergedA pa s))).getLsbD i ||
        (decide (i = 0) && (hasAny (mergedA pa s ||| dynamicA s (unitField (mergedA pa s))) EFLAGS_A ||
          hasAny (mergedB pb s ||| dynamicB s (unitField (mergedA pa s))) EFLAGS_B))) := by
  rw [recompute_eq]
  simp only [BitVec.getLsbD_or, getLsbD_summaryBit]

/-- Status B after a recompute, bit by bit (R112, R114, R115). -/
theorem getLsbD_recompute_stb (pa pb : Word) (s : State) (i : Nat) :
    (recompute pa pb s).stb.getLsbD i =
      ((mergedB pb s).getLsbD i || (dynamicB s (unitField (mergedA pa s))).getLsbD i) := by
  rw [recompute_eq]
  simp only [BitVec.getLsbD_or]

/-- A recompute gives a bit of status A outside 0, 2 and 3 its old value or the pending one. -/
theorem getLsbD_recompute_sta_kept (pa pb : Word) (s : State) {i : Nat} (h0 : i ≠ 0) (h2 : i ≠ 2) (h3 : i ≠ 3) :
    (recompute pa pb s).sta.getLsbD i = (s.sta.getLsbD i || pa.getLsbD i) := by
  rw [getLsbD_recompute_sta, getLsbD_mergedA, getLsbD_dynamicA]
  simp [h0, h2, h3]

/-- A recompute gives a bit of status B outside 0, 1 and 9 its old value or the pending one. -/
theorem getLsbD_recompute_stb_kept (pa pb : Word) (s : State) {i : Nat} (h0 : i ≠ 0) (h1 : i ≠ 1) (h9 : i ≠ 9) :
    (recompute pa pb s).stb.getLsbD i = (s.stb.getLsbD i || pb.getLsbD i) := by
  rw [getLsbD_recompute_stb, getLsbD_mergedB, getLsbD_dynamicB]
  simp [h0, h1, h9]

/-- The error summary after a recompute is that of the error flags after it (R117). -/
theorem hasAny_recompute_err (pb : Word) (s : State) (pa : Word) (h : pa.getLsbD 0 = false) :
    hasAny (recompute pa pb s).sta ERR =
      (hasAny (recompute pa pb s).sta EFLAGS_A || hasAny (recompute pa pb s).stb EFLAGS_B) := by
  have hA : hasAny (recompute pa pb s).sta EFLAGS_A =
      hasAny (mergedA pa s ||| dynamicA s (unitField (mergedA pa s))) EFLAGS_A := by
    simp [hasAny_EFLAGS_A, -BitVec.getLsbD_eq_getElem, getLsbD_recompute_sta]
  have hB : (recompute pa pb s).stb = mergedB pb s ||| dynamicB s (unitField (mergedA pa s)) := by rw [recompute_eq]
  rw [hA, hB, hasAny_ERR, getLsbD_recompute_sta, getLsbD_mergedA, getLsbD_dynamicA]
  simp [h, -BitVec.getLsbD_eq_getElem]

/-- The interrupt level after a recompute is that of the status registers after it (R118). -/
theorem recompute_irq (pa pb : Word) (s : State) :
    (recompute pa pb s).irq = irqLevel (recompute pa pb s).sta (recompute pa pb s).stb := by
  rw [recompute_eq]

/-- The unit a recompute reports is the one selected after it (R110). -/
theorem unitField_recompute (pa pb : Word) (s : State) :
    unitField (recompute pa pb s).sta = unitField (mergedA pa s) := by
  refine unitField_congr fun i h1 h2 => ?_
  have hi : ¬(i = 0 ∨ i = 2 ∨ i = 3) := by omega
  rw [getLsbD_recompute_sta_kept pa pb s (by omega) (by omega) (by omega), getLsbD_mergedA, decide_eq_false hi]
  simp

/-- Without pending UNIT bits the selection is the old one. -/
theorem sel_recompute (pa pb : Word) (s : State) (h : ∀ i, 15 ≤ i → i < 18 → pa.getLsbD i = false) :
    (recompute pa pb s).sel = s.sel := by
  rw [State.sel, unitField_recompute]
  refine unitField_congr fun i h1 h2 => ?_
  have hi : ¬(i = 0 ∨ i = 2 ∨ i = 3) := by omega
  rw [getLsbD_mergedA, h i h1 h2, decide_eq_false hi]
  simp

end Sys2Proof.Machine
end

