-- ==== Sys2Proof/Laws/Derived.lean ====
section
/-! SUPPORT. What a recompute leaves, in the terms of the statements (Safety.lean; 40_status_model.md R110 to R118). -/

namespace Sys2Proof.Machine

theorem seeking_eq (s : State) (u : UnitNo) : s.seeking u = seeks (s.unit u) := rfl

/-- A recompute leaves what steps 3 to 8 derive, SUFU also where it was passed as a pending bit. -/
theorem derivedWith_recompute (pa pb : Word) (s : State)
    (h0 : pa.getLsbD 0 = false) (h2 : pa.getLsbD 2 = false) (h3 : pa.getLsbD 3 = false)
    (k0 : pb.getLsbD 0 = false) (k1 : pb.getLsbD 1 = false) :
    DerivedWith (pb.getLsbD 9) (recompute pa pb s) where
  suwp := by
    rw [State.sel, unitField_recompute, recompute_unit, bit, getLsbD_recompute_sta, getLsbD_mergedA, h3, getLsbD_dynamicA]
    simp
  susi := by
    rw [State.sel, unitField_recompute, recompute_unit, bit, getLsbD_recompute_sta, getLsbD_mergedA, h2, getLsbD_dynamicA]
    rw [seeking_eq]
    simp
    rfl
  sufu := by
    rw [State.sel, unitField_recompute, recompute_unit, bit, getLsbD_recompute_stb, getLsbD_mergedB, getLsbD_dynamicB]
    simp
  susu := by
    rw [State.sel, unitField_recompute, recompute_unit, bit, getLsbD_recompute_stb, getLsbD_mergedB, k1, getLsbD_dynamicB]
    rw [seeking_eq]
    simp
  sunr := by
    rw [State.sel, unitField_recompute, recompute_unit, bit, getLsbD_recompute_stb, getLsbD_mergedB, k0, getLsbD_dynamicB]
    rw [seeking_eq]
    simp
  err := by
    have h := hasAny_recompute_err pb s pa h0
    rw [hasAny_ERR, hasAny_EFLAGS_A, hasAny_EFLAGS_B] at h
    rw [bit, h]
    simp only [bit, Bool.or_eq_true, List.mem_cons, List.not_mem_nil, or_false, exists_eq_or_imp, exists_eq_left]
    simp only [or_assoc]
  irq := by
    have hlt : ∀ i, (recompute pa pb s).stb.getLsbD i = true → i < 18 := by
      intro i hi
      by_contra hn
      rw [BitVec.getLsbD_of_ge _ i (by omega)] at hi
      exact Bool.noConfusion hi
    rw [recompute_irq, irqLevel, hasAny_DON_ERR, hasAny_IED, hasAny_IEA]
    simp only [Bool.or_eq_true, Bool.and_eq_true, hasAny_iff, getLsbD_ATTN_ALL, decide_eq_true_eq, bit]
    constructor
    · rintro (⟨h | h, h'⟩ | ⟨⟨i, h, h1, -⟩, h'⟩)
      · exact .inl ⟨.inr h, h'⟩
      · exact .inl ⟨.inl h, h'⟩
      · exact .inr ⟨⟨i, h1, h⟩, h'⟩
    · rintro (⟨h | h, h'⟩ | ⟨⟨i, h1, h⟩, h'⟩)
      · exact .inl ⟨.inr h, h'⟩
      · exact .inl ⟨.inl h, h'⟩
      · exact .inr ⟨⟨i, h, h1, hlt i h⟩, h'⟩

/-- The recompute at the end of a command leaves what steps 3 to 8 derive. -/
theorem derived_recompute (s : State) : Derived (recompute 0 0 s) :=
  derivedWith_recompute 0 0 s (by simp) (by simp) (by simp) (by simp) (by simp)

/-- The derived parts of a state depend on its status registers, its interrupt level and its units only. -/
theorem DerivedWith.congr {b : Bool} {s t : State} (h : DerivedWith b s) (hsta : t.sta = s.sta) (hstb : t.stb = s.stb)
    (hirq : t.irq = s.irq) (hunits : t.units = s.units) : DerivedWith b t := by
  obtain ⟨h1, h2, h3, h4, h5, h6, h7⟩ := h
  constructor <;> simp only [State.sel, State.unit, hsta, hstb, hirq, hunits] at * <;> assumption

/-- An answer leaves the derived parts. -/
theorem DerivedWith.answer {b : Bool} {s : State} (h : DerivedWith b s) (r : Reply) : DerivedWith b (s.answer r) :=
  h.congr rfl rfl rfl rfl

/-- A host effect leaves the derived parts. -/
theorem DerivedWith.raise {b : Bool} {s : State} (h : DerivedWith b s) (e : Effect) : DerivedWith b (s.raise e) :=
  h.congr rfl rfl rfl rfl

/-- A recompute without pending bits keeps the other bits of status A. -/
theorem sameSta_recompute (s : State) : SameSta s (recompute 0 0 s) [] := by
  intro i hi
  simp only [List.mem_cons, List.not_mem_nil, or_false, not_or] at hi
  rw [bit, getLsbD_recompute_sta_kept 0 0 s hi.1 hi.2.1 hi.2.2]
  simp

/-- A recompute without pending bits keeps the other bits of status B. -/
theorem sameStb_recompute (s : State) : SameStb s (recompute 0 0 s) [] := by
  intro i hi
  simp only [List.mem_cons, List.not_mem_nil, or_false, not_or] at hi
  rw [bit, getLsbD_recompute_stb_kept 0 0 s hi.1 hi.2.1 hi.2.2]
  simp

/-- A recompute changes nothing outside the status registers and the interrupt level. -/
theorem sameOutside_recompute (pa pb : Word) (s : State) : SameOutside s (recompute pa pb s) where
  regs := by simp [SameRegs]
  busy := by simp
  units := by simp [SameUnit]
  mem := by simp [SameMem]
  stores := by simp [SameStore]
  context := by simp [SameContext]
  draws := by simp
  effects := by simp

theorem SameOutside.answer {s t : State} (h : SameOutside s t) (r : Reply) : SameOutside s (t.answer r) :=
  ⟨h.regs, h.busy, h.units, h.mem, h.stores, h.context, h.draws, h.effects⟩

/-- The end of a command changes nothing but what the recompute derives and the answer (R143, R151). -/
theorem unchanged_endCommand (v : Word) (skip : Bool) (s : State) : Unchanged s (endCommand v skip s) where
  outside := (sameOutside_recompute 0 0 s).answer _
  sta := sameSta_recompute s
  stb := sameStb_recompute s
  derived := (derived_recompute s).answer _

/-- The end of a command that PGE was set in is a rejected load (R131). -/
theorem rejected_endCommand (v : Word) (skip : Bool) (s : State) : Rejected s (endCommand v skip (s.orStb PGE)) := by
  have hpge : bit (endCommand v skip (s.orStb PGE)).stb 8 = true := by
    show (recompute 0 0 (s.orStb PGE)).stb.getLsbD 8 = true
    rw [getLsbD_recompute_stb_kept 0 0 _ (by omega) (by omega) (by omega)]
    simp [-BitVec.getLsbD_eq_getElem]
  refine
    { outside := ?_, sta := ?_, stb := ?_, pge := hpge, error := ?_, derived := (derived_recompute _).answer _ }
  · have h := (sameOutside_recompute 0 0 (s.orStb PGE)).answer (.command v skip)
    exact ⟨h.regs, h.busy, h.units, h.mem, h.stores, h.context, h.draws, h.effects⟩
  · intro i hi
    exact sameSta_recompute (s.orStb PGE) i hi
  · intro i hi
    simp only [List.mem_cons, List.not_mem_nil, or_false, not_or] at hi
    show (recompute 0 0 (s.orStb PGE)).stb.getLsbD i = s.stb.getLsbD i
    rw [getLsbD_recompute_stb_kept 0 0 _ hi.1 hi.2.1 hi.2.2.1]
    simp [hi.2.2.2, -BitVec.getLsbD_eq_getElem]
  · exact ((derived_recompute (s.orStb PGE)).answer (.command v skip)).err.2 (.inr ⟨8, by simp, hpge⟩)

end Sys2Proof.Machine
end

