-- ==== Sys2Proof/Laws/Commands.lean ====
section
/-! SUPPORT. What a command can do, said once (30_encoding.md R91 to R97, 41_group1_commands.md, 42_group2_commands.md). -/

namespace Sys2Proof.Machine

/-! ### The end of a command -/

section
variable (v : Word) (k : Bool) (s : State)

@[simp] theorem endCommand_sta : (endCommand v k s).sta = (recompute 0 0 s).sta := rfl
@[simp] theorem endCommand_stb : (endCommand v k s).stb = (recompute 0 0 s).stb := rfl
@[simp] theorem endCommand_irq : (endCommand v k s).irq = (recompute 0 0 s).irq := rfl
@[simp] theorem endCommand_reply : (endCommand v k s).reply = .command v k := rfl
@[simp] theorem endCommand_da : (endCommand v k s).da = s.da := recompute_da 0 0 s
@[simp] theorem endCommand_ma : (endCommand v k s).ma = s.ma := recompute_ma 0 0 s
@[simp] theorem endCommand_wc : (endCommand v k s).wc = s.wc := recompute_wc 0 0 s
@[simp] theorem endCommand_busy : (endCommand v k s).busy = s.busy := recompute_busy 0 0 s
@[simp] theorem endCommand_units : (endCommand v k s).units = s.units := recompute_units 0 0 s
@[simp] theorem endCommand_unit (u : UnitNo) : (endCommand v k s).unit u = s.unit u := recompute_unit 0 0 s u
@[simp] theorem endCommand_mem : (endCommand v k s).mem = s.mem := recompute_mem 0 0 s
@[simp] theorem endCommand_effects : (endCommand v k s).effects = s.effects := recompute_effects 0 0 s
@[simp] theorem endCommand_cfg : (endCommand v k s).cfg = s.cfg := recompute_cfg 0 0 s
@[simp] theorem endCommand_host : (endCommand v k s).host = s.host := recompute_host 0 0 s
@[simp] theorem endCommand_ioFault : (endCommand v k s).ioFault = s.ioFault := recompute_ioFault 0 0 s
@[simp] theorem endCommand_refused : (endCommand v k s).refused = s.refused := recompute_refused 0 0 s
@[simp] theorem endCommand_draws : (endCommand v k s).draws = s.draws := recompute_draws 0 0 s
end

/-! ### A command by the bits of its code -/

/-- The command of group bit `g` and sub-code bits `s1`, `s0` (R93). -/
def commandMeaning (g s1 s0 : Bool) (p : Pulses) (v : Word) (s : State) : Result :=
  match g, s1, s0 with
  | false, false, false => group1Sub0 p v s
  | false, false, true => group1Sub1 p v s
  | false, true, false => group1Sub2 p v s
  | false, true, true => group1Sub3 p v s
  | true, false, false => group2Sub0 p v s
  | true, false, true => group2Sub1 p v s
  | true, true, false => group2Sub2 p v s
  | true, true, true => group2Sub3 p v s

/-- The pulse bits of a command code (R91). -/
def pulsesOf (c : BitVec 7) : Pulses := ⟨c.getLsbD 0, c.getLsbD 1, c.getLsbD 2⟩

/-- A command's meaning depends on its code by the group bit, the sub-code and the pulse bits only, whichever row it is read
as (R91, R94, R95). -/
theorem exec_decodeCommand (c : BitVec 7) (v : Word) (s : State) :
    exec (decodeCommand c v) s =
      commandMeaning (c.getLsbD 6) (c.getLsbD 5) (c.getLsbD 4) (pulsesOf c) v s := by
  unfold decodeCommand pulsesOf
  dsimp only
  generalize c.getLsbD 0 = k, c.getLsbD 1 = r, c.getLsbD 2 = l, c.getLsbD 3 = x,
    c.getLsbD 4 = b4, c.getLsbD 5 = b5, c.getLsbD 6 = b6
  cases b6 <;> cases b5 <;> cases b4 <;> cases k <;> cases r <;> cases l <;> rfl

/-! ### The load phases -/

/-- What the load phase of a command can make of a state: nothing, PGE while busy, one of the four loads of group 1, or a
status-A load (a new read/write field) with its go check. -/
inductive LoadResult (c : BitVec 7) (v : Word) (s : State) : State → Prop where
  | none : LoadResult c v s s
  | rejected (hb : s.busy = true) (hl : c.getLsbD 2 = true) : LoadResult c v s (s.orStb PGE)
  | diskAddress (hb : s.busy = false) (hg : c.getLsbD 6 = false) : LoadResult c v s (lddaLoad v s)
  | clearFlags (hb : s.busy = false) (hg : c.getLsbD 6 = false) : LoadResult c v s (clrfLoad v s)
  | memoryAddress (hb : s.busy = false) (hg : c.getLsbD 6 = false) : LoadResult c v s (ldmaLoad v s)
  | wordCount (hb : s.busy = false) (hg : c.getLsbD 6 = false) : LoadResult c v s (ldwcLoad v s)
  | statusA (hb : s.busy = false) (hg : c.getLsbD 6 = true) (hl : c.getLsbD 2 = true) (n : Word)
      (hn : ∀ i, i < 9 → n.getLsbD i = s.sta.getLsbD i) : LoadResult c v s (goCheck { s with sta := n })

/-- Group-1 loads leave the status-A word's read/write field and group-2 loads its other bits (R160). -/
theorem low_bits_kept (w v : Word) (i : Nat) (hi : i < 9) :
    (w &&& ~~~RW).getLsbD i = w.getLsbD i ∧ (w &&& (v ||| ~~~RW)).getLsbD i = w.getLsbD i ∧
      (w &&& ~~~(v &&& RW)).getLsbD i = w.getLsbD i ∧ (w ||| (v &&& RW)).getLsbD i = w.getLsbD i ∧
      ((w &&& ~~~RW) ||| (v &&& RW)).getLsbD i = w.getLsbD i := by
  have h1 : i < 18 := by omega
  have h2 : ¬(9 ≤ i) := by omega
  simp [h1, h2]

theorem loadResult_gate {c : BitVec 7} {v : Word} {s : State} {load : State → State} (p : Bool) (hp : p = c.getLsbD 2)
    (h : s.busy = false → c.getLsbD 2 = true → LoadResult c v s (load s)) :
    LoadResult c v s (if p then busyGate load s else s) := by
  subst hp
  split
  · rename_i hl
    unfold busyGate
    split
    · exact .rejected (by assumption) hl
    · rename_i hb
      exact h (by simpa using hb) hl
  · exact .none

/-- The reserved command by the bits of its code (R97). -/
theorem reservedCode_iff (c : BitVec 7) :
    reservedCode c ↔ c.getLsbD 6 = true ∧ c.getLsbD 5 = false ∧ c.getLsbD 4 = false ∧ c.getLsbD 2 = true := by
  revert c
  decide

/-- What a command that completes has done: its load phase, then its end; or it was refused as a whole (R97). -/
theorem command_cases {c : BitVec 7} {v : Word} {s t : State} (h : exec (decodeCommand c v) s = .next t) :
    (∃ w k x, t = endCommand w k x ∧ LoadResult c v s x) ∨
      (reservedCode c ∧ s.cfg.g2S0Load = .refuse ∧ t = s.refuse) := by
  rw [exec_decodeCommand] at h
  generalize hg : c.getLsbD 6 = g at h
  generalize h5 : c.getLsbD 5 = b5 at h
  generalize h4 : c.getLsbD 4 = b4 at h
  have hp : (pulsesOf c).load = c.getLsbD 2 := rfl
  generalize pulsesOf c = p at h hp
  have hsta : ∀ n : Word, g = true → (∀ i, i < 9 → n.getLsbD i = s.sta.getLsbD i) → s.busy = false →
      c.getLsbD 2 = true → LoadResult c v s (goCheck { s with sta := n }) :=
    fun n hg' hn hb hl => .statusA hb (hg.trans hg') hl n hn
  cases g <;> cases b5 <;> cases b4 <;>
    simp only [commandMeaning, group1Sub0, group1Sub1, group1Sub2, group1Sub3, group2Sub0, group2Sub1, group2Sub2,
      group2Sub3] at h
  · cases h
    exact .inl ⟨_, _, _, rfl, loadResult_gate _ hp fun hb _ => .diskAddress hb hg⟩
  · cases h
    exact .inl ⟨_, _, _, rfl, loadResult_gate _ hp fun hb _ => .clearFlags hb hg⟩
  · cases h
    exact .inl ⟨_, _, _, rfl, loadResult_gate _ hp fun hb _ => .memoryAddress hb hg⟩
  · cases h
    exact .inl ⟨_, _, _, rfl, loadResult_gate _ hp fun hb _ => .wordCount hb hg⟩
  · split at h
    · rename_i hr
      cases h
      exact .inr ⟨(reservedCode_iff c).2 ⟨hg, h5, h4, hp ▸ hr.1⟩, hr.2, rfl⟩
    · cases h
      exact .inl ⟨_, _, _, rfl,
        loadResult_gate _ hp fun hb hl => hsta _ rfl (fun i hi => (low_bits_kept s.sta v i hi).1) hb hl⟩
  · cases h
    refine .inl ⟨_, _, _, rfl, loadResult_gate _ hp fun hb hl => ?_⟩
    unfold lsacLoad
    split
    · exact hsta _ rfl (fun i hi => (low_bits_kept s.sta v i hi).2.1) hb hl
    · exact hsta _ rfl (fun i hi => (low_bits_kept s.sta v i hi).2.2.1) hb hl
  · cases h
    exact .inl ⟨_, _, _, rfl, loadResult_gate _ hp fun hb hl =>
      hsta _ rfl (fun i hi => (low_bits_kept s.sta v i hi).2.2.2.1) hb hl⟩
  · cases h
    exact .inl ⟨_, _, _, rfl, loadResult_gate _ hp fun hb hl =>
      hsta _ rfl (fun i hi => (low_bits_kept s.sta v i hi).2.2.2.2) hb hl⟩

/-! ### The go trigger -/

/-- A go check starts the selected unit, or does nothing (R165). -/
theorem goCheck_cases (s : State) :
    (s.sta.getLsbD 9 = true ∧ s.pending s.sel = false ∧ goCheck s = startUnit s.sel (funcField s.sta) s) ∨
      ((s.sta.getLsbD 9 = false ∨ s.pending s.sel = true) ∧ goCheck s = s) := by
  unfold goCheck
  rw [hasAny_GO]
  cases s.sta.getLsbD 9 <;> cases s.pending s.sel <;> simp

section
variable (u : UnitNo) (f : Func) (s : State)

/-- A go in closed form: the started unit's record, busy, and the two status registers (R165). -/
theorem startUnit_eq :
    startUnit u f s =
      { s.setUnit u { s.unit u with func := ⟨f, false⟩, ev := some (goDelay s u f) } with
        busy := true
        sta :=
          if s.cfg.goAutoclear then s.sta &&& ~~~(DON ||| HNF ||| WLE) &&& ~~~GO else s.sta &&& ~~~(DON ||| HNF ||| WLE)
        stb := s.stb &&& ~~~(STICKY_B ||| ATTN u) } := by
  unfold startUnit
  dsimp only
  split
  · rename_i h
    have h' : s.cfg.goAutoclear = true := h
    rw [if_pos h']
    rfl
  · rename_i h
    have h' : ¬s.cfg.goAutoclear = true := h
    rw [if_neg h']
    rfl

@[simp] theorem startUnit_unit (v : UnitNo) :
    (startUnit u f s).unit v =
      if u = v then { s.unit u with func := ⟨f, false⟩, ev := some (goDelay s u f) } else s.unit v := by
  rw [startUnit_eq]
  exact unit_setUnit s u v _

@[simp] theorem startUnit_busy : (startUnit u f s).busy = true := by rw [startUnit_eq]
@[simp] theorem startUnit_da : (startUnit u f s).da = s.da := by rw [startUnit_eq]; rfl
@[simp] theorem startUnit_ma : (startUnit u f s).ma = s.ma := by rw [startUnit_eq]; rfl
@[simp] theorem startUnit_wc : (startUnit u f s).wc = s.wc := by rw [startUnit_eq]; rfl
@[simp] theorem startUnit_mem : (startUnit u f s).mem = s.mem := by rw [startUnit_eq]; rfl
@[simp] theorem startUnit_effects : (startUnit u f s).effects = s.effects := by rw [startUnit_eq]; rfl
@[simp] theorem startUnit_cfg : (startUnit u f s).cfg = s.cfg := by rw [startUnit_eq]; rfl
@[simp] theorem startUnit_host : (startUnit u f s).host = s.host := by rw [startUnit_eq]; rfl
@[simp] theorem startUnit_ioFault : (startUnit u f s).ioFault = s.ioFault := by rw [startUnit_eq]; rfl
@[simp] theorem startUnit_refused : (startUnit u f s).refused = s.refused := by rw [startUnit_eq]; rfl
@[simp] theorem startUnit_draws : (startUnit u f s).draws = s.draws := by rw [startUnit_eq]; rfl

/-- Status A after a go, bit by bit. -/
theorem getLsbD_startUnit_sta (i : Nat) :
    (startUnit u f s).sta.getLsbD i =
      (s.sta.getLsbD i && !decide (i = 1 ∨ i = 4 ∨ i = 8) && !(decide (i = 9) && s.cfg.goAutoclear)) := by
  rw [startUnit_eq]
  refine getLsbD_eq_of_lt
    (f := fun i => s.sta.getLsbD i && !decide (i = 1 ∨ i = 4 ∨ i = 8) && !(decide (i = 9) && s.cfg.goAutoclear))
    (fun i hi => ?_) (fun i hi => ?_) i
  · cases s.cfg.goAutoclear <;> simp [hi] <;> grind
  · rw [BitVec.getLsbD_of_ge _ i hi]
    rfl

/-- Status B after a go, bit by bit. -/
theorem getLsbD_startUnit_stb (i : Nat) :
    (startUnit u f s).stb.getLsbD i =
      (s.stb.getLsbD i && !decide (2 ≤ i ∧ i < 9) && !decide (i = 17 - u.val)) := by
  rw [startUnit_eq]
  refine getLsbD_eq_of_lt
    (f := fun i => s.stb.getLsbD i && !decide (2 ≤ i ∧ i < 9) && !decide (i = 17 - u.val))
    (fun i hi => ?_) (fun i hi => ?_) i
  · simp [hi, Bool.and_assoc]
  · simp [BitVec.getLsbD_of_ge _ i hi]
end

end Sys2Proof.Machine
end

