-- ==== Sys2Proof/Laws/Encoding.lean ====
section
/-! SUPPORT. The byte image and the fields of a status-A word (30_encoding.md R91, R99; 10_state.md R22). -/

namespace Sys2Proof

open Machine

/-- The bytes of a word hold it, with zeros above bit 17. -/
theorem wordBytes_parts (v : Word) :
    ((v.extractLsb' 16 2).setWidth 8).extractLsb' 2 6 = 0#6 ∧
      ((v.extractLsb' 16 2).setWidth 8).extractLsb' 0 2 ++ v.extractLsb' 8 8 ++ v.extractLsb' 0 8 = v := by
  constructor
  · apply BitVec.eq_of_getLsbD_eq
    intro i hi
    simp
  · apply BitVec.eq_of_getLsbD_eq
    intro i hi
    have hi' : i < 18 := hi
    rw [BitVec.getLsbD_append, BitVec.getLsbD_append]
    by_cases h : i < 8
    · simp [h]
    · by_cases h' : i - 8 < 8
      · simp [h, h', show 8 + (i - 8) = i by omega]
      · simp [h, h', show 16 + (i - 8 - 8) = i by omega, show i - 8 - 8 < 8 by omega, show i - 8 - 8 < 2 by omega]

/-- The image of an encoded form reads back as the form. -/
theorem Code.ofBytes_bytes (c : Code) : Code.ofBytes c.bytes = .ok c := by
  cases c with
  | command c v =>
    obtain ⟨h1, h2⟩ := wordBytes_parts v
    have h3 : (c.setWidth 8).getLsbD 7 = false := by simp
    have h4 : (c.setWidth 8).extractLsb' 0 7 = c := by
      apply BitVec.eq_of_getLsbD_eq
      intro i hi
      simp [hi, show i < 8 by omega]
    simp only [Code.bytes, wordBytes, Code.ofBytes, h1, h2, h3, h4, and_self, if_true]
  | function w =>
    obtain ⟨h1, h2⟩ := wordBytes_parts w
    simp only [Code.bytes, wordBytes, Code.ofBytes, h1, h2, if_true]

section
variable (u : UnitNo) (f : Func) (ied iea go : Bool) (flags : BitVec 9)

theorem Func.ofCode_code : Func.ofCode f.code = f := by cases f <;> rfl

theorem unitField_functionWord : unitField (functionWord u f ied iea go flags) = u := by
  have h : (functionWord u f ied iea go flags).extractLsb' 15 3 = BitVec.ofNat 3 u.val := by
    apply BitVec.eq_of_getLsbD_eq
    intro i hi
    simp only [functionWord, BitVec.getLsbD_extractLsb', BitVec.getLsbD_append, hi]
    simp [hi, show ¬(15 + i < 9) by omega, show ¬(15 + i - 9 < 1) by omega, show ¬(15 + i - 9 - 1 < 1) by omega,
      show ¬(15 + i - 9 - 1 - 1 < 1) by omega, show ¬(15 + i - 9 - 1 - 1 - 1 < 3) by omega,
      show 15 + i - 9 - 1 - 1 - 1 - 3 = i by omega]
  apply Fin.ext
  show ((functionWord u f ied iea go flags).extractLsb' 15 3).toNat = u.val
  rw [h]
  simp

theorem funcField_functionWord : funcField (functionWord u f ied iea go flags) = f := by
  have h : (functionWord u f ied iea go flags).extractLsb' 12 3 = f.code := by
    apply BitVec.eq_of_getLsbD_eq
    intro i hi
    have h3 : 12 + i - 9 - 1 - 1 - 1 = i := by omega
    simp only [functionWord, BitVec.getLsbD_extractLsb', BitVec.getLsbD_append, hi, h3]
    simp [show ¬(12 + i < 9) by omega, show ¬(12 + i - 9 < 1) by omega, show ¬(12 + i - 9 - 1 < 1) by omega,
      show ¬(12 + i - 9 - 1 - 1 < 1) by omega]
  rw [funcField, h, Func.ofCode_code]

theorem flags_functionWord :
    (functionWord u f ied iea go flags).getLsbD 11 = ied ∧ (functionWord u f ied iea go flags).getLsbD 10 = iea ∧
      (functionWord u f ied iea go flags).getLsbD 9 = go ∧
      (functionWord u f ied iea go flags).extractLsb' 0 9 = flags := by
  refine ⟨?_, ?_, ?_, ?_⟩
  · simp only [functionWord, BitVec.getLsbD_append]
    simp
  · simp only [functionWord, BitVec.getLsbD_append]
    simp
  · simp only [functionWord, BitVec.getLsbD_append]
    simp
  · apply BitVec.eq_of_getLsbD_eq
    intro i hi
    simp only [functionWord, BitVec.getLsbD_extractLsb', BitVec.getLsbD_append]
    simp [hi]

/-- A status-A word decodes to the function row of its fields (R99). -/
theorem decodeFunction_functionWord :
    decodeFunction (functionWord u f ied iea go flags) = functionRow f u ied iea go flags := by
  obtain ⟨h1, h2, h3, h4⟩ := flags_functionWord u f ied iea go flags
  simp only [decodeFunction, unitField_functionWord, funcField_functionWord, h1, h2, h3, h4]
  cases f <;> rfl

/-- The completion of a unit is the function row of its tag's code (R170). -/
theorem completionOf_eq (s : State) :
    ∃ ied iea go flags, completionOf u s = functionRow (s.unit u).func.code u ied iea go flags :=
  ⟨_, _, _, _, decodeFunction_functionWord u _ _ _ _ _⟩

/-- A function row's other fields do not enter its meaning (R170). -/
theorem exec_functionRow (s : State) (ied' iea' go' : Bool) (flags' : BitVec 9) :
    exec (functionRow f u ied iea go flags) s = exec (functionRow f u ied' iea' go' flags') s := by
  cases f <;> rfl

/-- The completion of a unit runs as the function row of its tag's code, whatever the other fields are. -/
theorem exec_completionOf (s t : State) :
    exec (completionOf u s) t = exec (functionRow (s.unit u).func.code u ied iea go flags) t := by
  obtain ⟨a, b, c, d, h⟩ := completionOf_eq u s
  rw [h, exec_functionRow]
end

end Sys2Proof
end

