-- ==== Sys2Proof/Laws/Geometry.lean ====
section
/-! SUPPORT. The geometry codec (10_state.md R29, R40; 20_memory.md R63 to R68). -/

namespace Sys2Proof.Machine

theorem getLsbD_ite_zero (p : Prop) [Decidable p] (m : Word) (i : Nat) :
    (if p then m else 0).getLsbD i = (decide p && m.getLsbD i) := by
  by_cases h : p <;> simp [h]

/-- The bad components of a disk address, bit by bit (R65). -/
theorem getLsbD_badGeometry (x : Word) (i : Nat) :
    (badGeometry x).getLsbD i =
      ((decide (10 ≤ (x.extractLsb' 0 4).toNat) && decide (i = 5)) ||
        (decide (20 ≤ (x.extractLsb' 5 5).toNat) && decide (i = 6)) ||
        (decide (203 ≤ (x.extractLsb' 10 8).toNat) && decide (i = 7))) := by
  rw [badGeometry, BitVec.getLsbD_or, BitVec.getLsbD_or, getLsbD_ite_zero, getLsbD_ite_zero, getLsbD_ite_zero,
    getLsbD_NXS, getLsbD_NXF, getLsbD_NXC]
  rfl

/-- A disk address without a bad component is one whose components are in range. -/
theorem badGeometry_eq_zero (x : Word) : badGeometry x = 0 ↔ validAddress x := by
  constructor
  · intro h
    have h5 := getLsbD_badGeometry x 5
    have h6 := getLsbD_badGeometry x 6
    have h7 := getLsbD_badGeometry x 7
    rw [h] at h5 h6 h7
    simp [-BitVec.extractLsb'_toNat] at h5 h6 h7
    exact ⟨h5, h6, h7⟩
  · rintro ⟨h5, h6, h7⟩
    have e5 : ¬(SECTORS ≤ SECT x) := by simp only [SECTORS, SECT]; omega
    have e6 : ¬(SURFACES ≤ SURF x) := by simp only [SURFACES, SURF]; omega
    have e7 : ¬(CYLINDERS ≤ CYL x) := by simp only [CYLINDERS, CYL]; omega
    rw [badGeometry, if_neg e5, if_neg e6, if_neg e7]
    rfl

theorem CAP_eq : CAP = 10393600 := rfl

/-- The store offset of a disk address by its components (R66). -/
theorem storeOffset_eq (x : Word) : storeOffset x = offsetOf x := rfl

/-- A valid disk address has its whole sector in the store. -/
theorem storeOffset_lt {x : Word} (h : validAddress x) : storeOffset x + 256 ≤ CAP := by
  obtain ⟨h1, h2, h3⟩ := h
  simp only [storeOffset_eq, offsetOf, CAP_eq]
  omega

/-- A store offset is a sector boundary. -/
theorem storeOffset_mod (x : Word) : storeOffset x % 256 = 0 := by
  simp only [storeOffset_eq, offsetOf, Nat.mul_mod_left]

/-- Packing components that are in range of their fields (R68). -/
theorem encodeDA_eq {d : DiskAddr} (hs : d.sect < 32) (hf : d.surf < 32) :
    encodeDA d = BitVec.ofNat 18 (d.cyl * 1024 + d.surf * 32 + d.sect) := by
  have h1 : d.surf <<< 5 ||| d.sect = d.surf * 32 + d.sect := by
    rw [← Nat.shiftLeft_add_eq_or_of_lt (by omega) d.surf, Nat.shiftLeft_eq]
  have h2 : d.cyl <<< 10 ||| (d.surf * 32 + d.sect) = d.cyl * 1024 + (d.surf * 32 + d.sect) := by
    rw [← Nat.shiftLeft_add_eq_or_of_lt (by omega) d.cyl, Nat.shiftLeft_eq]
  rw [encodeDA, Nat.lor_assoc, h1, h2, Nat.add_assoc]

/-- The disk address after a transfer that ends at store offset `w` (R186). -/
theorem encodeDA_fromLinear (w : Nat) : encodeDA (fromLinear w) = addressAt w := by
  rw [encodeDA_eq]
  · rfl
  · simp only [fromLinear, SECTORS]
    omega
  · simp only [fromLinear, SURFACES, SECTORS]
    omega

end Sys2Proof.Machine
end

