-- ==== Sys2Proof/Laws/Memory.lean ====
section
/-! SUPPORT. The laws of memory: read after write, the canonical form, the address bound (20_memory.md R61, R62). -/

namespace Sys2Proof.Machine

variable {m : Memory} {a b n : Nat} {v : Word}

theorem wf_nil : Memory.wf [] := by simp [Memory.wf]

theorem wf_cons {c : Nat × Word} :
    Memory.wf (c :: m) ↔ (∀ d ∈ m, c.1 < d.1) ∧ c.2 ≠ unwritten ∧ Memory.wf m := by
  simp only [Memory.wf, List.pairwise_cons, List.forall_mem_cons]
  tauto

/-- Below every listed address a memory reads as unwritten. -/
theorem readWord_of_lt (h : ∀ d ∈ m, a < d.1) : readWord m a = unwritten := by
  cases m with
  | nil => rfl
  | cons c m =>
    have := h c (by simp)
    simp only [readWord]
    rw [if_neg (by omega), if_pos this]

/-- Where a written memory lists an address, it is the written one or one listed before. -/
theorem mem_writeWord {c : Nat × Word} (h : c ∈ writeWord m a v) : c = (a, v) ∧ v ≠ unwritten ∨ c ∈ m := by
  induction m with
  | nil =>
    simp only [writeWord] at h
    split at h
    · simp at h
    · exact .inl ⟨by simpa using h, by assumption⟩
  | cons d m ih =>
    obtain ⟨e, w⟩ := d
    simp only [writeWord] at h
    split at h
    · split at h
      · exact .inr h
      · rcases List.mem_cons.1 h with h | h
        · exact .inl ⟨h, by assumption⟩
        · exact .inr h
    · split at h
      · split at h
        · exact .inr (List.mem_cons_of_mem _ h)
        · rcases List.mem_cons.1 h with h | h
          · exact .inl ⟨h, by assumption⟩
          · exact .inr (List.mem_cons_of_mem _ h)
      · rcases List.mem_cons.1 h with h | h
        · exact .inr (by simp [h])
        · rcases ih h with h | h
          · exact .inl h
          · exact .inr (List.mem_cons_of_mem _ h)

/-- A write keeps the canonical form. -/
theorem writeWord_wf (h : m.wf) : (writeWord m a v).wf := by
  induction m with
  | nil =>
    simp only [writeWord]
    split <;> simp_all [Memory.wf]
  | cons d m ih =>
    obtain ⟨e, w⟩ := d
    obtain ⟨h1, h2, h3⟩ := wf_cons.1 h
    simp only [writeWord]
    split
    · split
      · exact h
      · refine wf_cons.2 ⟨fun d hd => ?_, by assumption, h⟩
        rcases List.mem_cons.1 hd with rfl | hd
        · assumption
        · exact Nat.lt_trans (by assumption) (h1 d hd)
    · split
      · split
        · exact h3
        · rename_i h4 _
          exact wf_cons.2 ⟨fun d hd => h4 ▸ h1 d hd, by assumption, h3⟩
      · refine wf_cons.2 ⟨fun d hd => ?_, h2, ih h3⟩
        rcases mem_writeWord hd with ⟨rfl, -⟩ | hd
        · show e < a
          omega
        · exact h1 d hd

/-- A write below the bound keeps the bound. -/
theorem writeWord_below (h : m.below n) (ha : a < n) : (writeWord m a v).below n := by
  intro c hc
  rcases mem_writeWord hc with ⟨rfl, -⟩ | hc
  · exact ha
  · exact h c hc

/-- Read after write: the written word at its address, everything else as before. -/
theorem readWord_writeWord (h : m.wf) (a b : Nat) (v : Word) :
    readWord (writeWord m a v) b = if b = a then v else readWord m b := by
  induction m with
  | nil =>
    simp only [writeWord, readWord]
    split <;> split <;> simp_all [readWord]
  | cons d m ih =>
    obtain ⟨e, w⟩ := d
    obtain ⟨h1, h2, h3⟩ := wf_cons.1 h
    simp only [writeWord]
    split
    · split
      · by_cases hb : b = a
        · subst hb
          rw [if_pos rfl, readWord, if_neg (by omega), if_pos (by assumption)]
          simp_all
        · rw [if_neg hb]
      · by_cases hb : b = a
        · simp [readWord, hb]
        · by_cases hlt : b < a
          · simp only [readWord, if_neg hb, if_pos hlt]
            rw [if_neg (by omega), if_pos (by omega)]
          · simp only [readWord, if_neg hb, if_neg hlt]
    · split
      · rename_i h4
        subst h4
        split
        · by_cases hb : b = a
          · subst hb
            rw [if_pos rfl, readWord_of_lt h1]
            simp_all
          · rw [if_neg hb, readWord, if_neg hb]
            by_cases hlt : b < a
            · rw [if_pos hlt, readWord_of_lt fun d hd => Nat.lt_trans hlt (h1 d hd)]
            · rw [if_neg hlt]
        · by_cases hb : b = a
          · simp [readWord, hb]
          · simp only [readWord, if_neg hb]
      · simp only [readWord, ih h3]
        by_cases hb : b = e
        · subst hb
          rw [if_pos rfl, if_pos rfl, if_neg (by omega)]
        · rw [if_neg hb, if_neg hb]
          by_cases hlt : b < e
          · rw [if_pos hlt, if_pos hlt, if_neg (by omega)]
          · rw [if_neg hlt, if_neg hlt]

theorem readWord_writeWord_same (h : m.wf) : readWord (writeWord m a v) a = v := by
  rw [readWord_writeWord h, if_pos rfl]

theorem readWord_writeWord_other (h : m.wf) (hb : b ≠ a) : readWord (writeWord m a v) b = readWord m b := by
  rw [readWord_writeWord h, if_neg hb]

/-! ### Many words -/

theorem writeWords_wf (h : m.wf) (a : Nat) (ws : List Word) : (writeWords m a ws).wf := by
  induction ws generalizing m a with
  | nil => exact h
  | cons w ws ih => exact ih (writeWord_wf h) (a + 1)

theorem writeWords_below (h : m.below n) (a : Nat) (ws : List Word) (ha : a + ws.length ≤ n) :
    (writeWords m a ws).below n := by
  induction ws generalizing m a with
  | nil => exact h
  | cons w ws ih =>
    simp only [List.length_cons] at ha
    exact ih (writeWord_below h (by omega)) (a + 1) (by omega)

/-- Read after a block write: the block's word inside it, everything else as before. -/
theorem readWord_writeWords (h : m.wf) (a b : Nat) (ws : List Word) :
    readWord (writeWords m a ws) b =
      if a ≤ b ∧ b < a + ws.length then ws.getD (b - a) unwritten else readWord m b := by
  induction ws generalizing m a with
  | nil =>
    rw [writeWords, if_neg]
    simp only [List.length_nil]
    omega
  | cons w ws ih =>
    rw [writeWords, ih (writeWord_wf h), List.length_cons]
    by_cases h1 : a + 1 ≤ b ∧ b < a + 1 + ws.length
    · rw [if_pos h1, if_pos (by omega)]
      obtain ⟨k, hk⟩ : ∃ k, b - a = k + 1 := ⟨b - a - 1, by omega⟩
      rw [hk, List.getD_cons_succ]
      congr 1
      omega
    · rw [if_neg h1, readWord_writeWord h]
      by_cases h2 : b = a
      · subst h2
        simp
      · rw [if_neg h2, if_neg (by omega)]

theorem readWord_writeWords_outside (h : m.wf) (ws : List Word) (hb : b < a ∨ a + ws.length ≤ b) :
    readWord (writeWords m a ws) b = readWord m b := by
  rw [readWord_writeWords h, if_neg (by omega)]

@[simp] theorem readWords_length (m : Memory) (a n : Nat) : (readWords m a n).length = n := by
  induction n generalizing a with
  | zero => rfl
  | succ n ih => simp [readWords, ih]

theorem readWords_getD (m : Memory) (a n i : Nat) (v : Word) :
    (readWords m a n).getD i v = if i < n then readWord m (a + i) else v := by
  induction n generalizing a i with
  | zero => simp [readWords]
  | succ n ih =>
    cases i with
    | zero => simp [readWords]
    | succ i =>
      rw [readWords, List.getD_cons_succ, ih]
      simp only [Nat.add_lt_add_iff_right]
      rw [show a + 1 + i = a + (i + 1) by omega]

@[simp] theorem freeWords_length (k n : Nat) : (freeWords k n).length = n := by
  induction n generalizing k with
  | zero => rfl
  | succ n ih => simp [freeWords, ih]

/-- Two blocks are equal exactly when all their words are. -/
theorem readWords_eq_iff (m m' : Memory) (a a' n : Nat) :
    readWords m a n = readWords m' a' n ↔ ∀ i < n, readWord m (a + i) = readWord m' (a' + i) := by
  induction n generalizing a a' with
  | zero => simp [readWords]
  | succ n ih =>
    rw [readWords, readWords, List.cons_eq_cons, ih]
    constructor
    · rintro ⟨h0, h⟩ i hi
      cases i with
      | zero => exact h0
      | succ i =>
        have := h i (by omega)
        rwa [show a + 1 + i = a + (i + 1) by omega, show a' + 1 + i = a' + (i + 1) by omega] at this
    · intro h
      refine ⟨h 0 (by omega), fun i hi => ?_⟩
      have := h (i + 1) (by omega)
      rwa [show a + 1 + i = a + (i + 1) by omega, show a' + 1 + i = a' + (i + 1) by omega]

/-- A block that is written back as it was read agrees with its source. -/
theorem readWords_writeWords (h : m.wf) (a : Nat) (ws : List Word) :
    readWords (writeWords m a ws) a ws.length = ws := by
  apply List.ext_getElem
  · simp
  · intro i h1 h2
    have h3 := readWords_getD (writeWords m a ws) a ws.length i unwritten
    rw [if_pos h2, readWord_writeWords h, if_pos (by omega), Nat.add_sub_cancel_left] at h3
    simpa [List.getD_eq_getElem?_getD, h1, h2] using h3

end Sys2Proof.Machine
end

