-- ==== Sys2Proof/Laws/HostCalls.lean ====
section
/-! SUPPORT. What the host's calls do to the units and the memories (45_host_lifecycle.md R220 to R223,
70_reset_and_hazards.md R260 to R262). -/

namespace Sys2Proof.Machine

/-! ### The store of an image -/

/-- Words written one by one keep the canonical form and the bound. -/
theorem foldl_write_wf_below {n : Nat} (cells : List (Nat × Word)) (hb : ∀ c ∈ cells, c.1 < n) :
    ∀ m : Memory, m.wf → m.below n →
      (cells.foldl (fun m c => writeWord m c.1 c.2) m).wf ∧ (cells.foldl (fun m c => writeWord m c.1 c.2) m).below n := by
  induction cells with
  | nil => exact fun m hw hm => ⟨hw, hm⟩
  | cons c cs ih =>
    intro m hw hm
    exact ih (fun d hd => hb d (List.mem_cons_of_mem _ hd)) _ (writeWord_wf hw) (writeWord_below hm (hb c (by simp)))

/-- The store an image fills is canonical and holds no word at or past the image's length (R220). -/
theorem Image.store_wf_below (i : Image) : (Image.store i).wf ∧ (Image.store i).below i.len := by
  refine foldl_write_wf_below _ (fun c hc => ?_) [] wf_nil (by intro c hc; simp at hc)
  simpa using (List.mem_filter.1 hc).2

/-- An address that none of the written cells has reads as before. -/
theorem readWord_foldl_write_other (cells : List (Nat × Word)) (a : Nat) (h : ∀ c ∈ cells, c.1 ≠ a) :
    ∀ m : Memory, m.wf → readWord (cells.foldl (fun m c => writeWord m c.1 c.2) m) a = readWord m a := by
  induction cells with
  | nil => exact fun m _ => rfl
  | cons c cs ih =>
    intro m hw
    refine (ih (fun d hd => h d (List.mem_cons_of_mem _ hd)) _ (writeWord_wf hw)).trans ?_
    exact readWord_writeWord_other hw (Ne.symm (h c (by simp)))

/-- A list of words written from address `k` up reads back. -/
theorem readWord_foldl_zipIdx (ws : List Word) (a : Nat) :
    ∀ (k : Nat) (m : Memory), m.wf →
      readWord ((ws.zipIdx k |>.map fun p => (p.2, p.1)).foldl (fun m c => writeWord m c.1 c.2) m) a =
        if k ≤ a ∧ a < k + ws.length then ws.getD (a - k) 0 else readWord m a := by
  induction ws with
  | nil =>
    intro k m _
    rw [if_neg (by simp)]
    rfl
  | cons w ws ih =>
    intro k m hw
    rw [List.zipIdx_cons, List.map_cons, List.foldl_cons, ih (k + 1) _ (writeWord_wf hw)]
    simp only [List.length_cons]
    by_cases h1 : k + 1 ≤ a ∧ a < k + 1 + ws.length
    · rw [if_pos h1, if_pos (by omega), show a - k = (a - (k + 1)) + 1 by omega, List.getD_cons_succ]
    · rw [if_neg h1, readWord_writeWord hw]
      by_cases h2 : a = k
      · subst h2
        rw [if_pos rfl, if_pos (by omega), Nat.sub_self, List.getD_cons_zero]
      · rw [if_neg h2, if_neg (by omega)]

/-- The store of an image of a list of words holds the words, and zero past them (R220). -/
theorem readWord_imageOf (ws : List Word) (a : Nat) : readWord (Image.store (imageOf ws)) a = ws.getD a 0 := by
  have hf : (imageOf ws).cells.filter (fun c => decide (c.1 < (imageOf ws).len)) = (imageOf ws).cells := by
    rw [List.filter_eq_self]
    intro c hc
    obtain ⟨p, hp, rfl⟩ := List.mem_map.1 hc
    have := (List.mem_zipIdx hp).2.1
    refine decide_eq_true ?_
    show p.2 < ws.length
    simpa using this
  unfold Image.store
  rw [hf]
  refine (readWord_foldl_zipIdx ws a 0 [] wf_nil).trans ?_
  by_cases h : a < ws.length
  · rw [if_pos (by omega), Nat.sub_zero]
  · rw [if_neg (by omega), List.getD_eq_default _ _ (by omega)]
    rfl

/-! ### The calls -/

/-- A reset, field by field (R260, R261, R262). -/
theorem resetController_unit (s : State) (u : UnitNo) :
    (resetController s).unit u = { s.unit u with ev := none, cyl := 0, func := ⟨.idle, false⟩ } := by
  rw [resetController, recompute_unit]
  exact unit_map _ (fun d : Drive => { d with ev := none, cyl := 0, func := ⟨.idle, false⟩ }) u

theorem attachUnit_next {s t : State} {u : UnitNo} {i : Image} (h : attachUnit u i s = .next t) :
    t = s.answer (.attached false) ∨
      u.val < s.cfg.numUnits ∧ i.len ≤ CAP ∧
        t = (recompute 0 0 (s.setUnit u { s.unit u with store := Image.store i, attached := true })).answer
          (.attached true) := by
  unfold attachUnit at h
  split at h
  · cases h
  · split at h
    · cases h
      exact .inl rfl
    · cases h
      exact .inr ⟨by omega, by omega, rfl⟩

theorem pokeMemory_next {s t : State} {a : Nat} {v : Word} (h : pokeMemory a v s = .next t) :
    a < s.cfg.memSize ∧ t = { s with mem := writeWord s.mem a v } := by
  unfold pokeMemory at h
  split at h
  · cases h
    exact ⟨by assumption, rfl⟩
  · cases h

theorem advanceTick_unit (s : State) (u : UnitNo) :
    (advanceTick s).unit u = { s.unit u with ev := (s.unit u).ev.map (· - 1) } :=
  unit_map s (fun d => { d with ev := d.ev.map (· - 1) }) u

end Sys2Proof.Machine
end

