-- ==== Sys2Proof/Laws/PerInstr.lean ====
section
/-! SUPPORT. One statement for every instruction: its encoding matches its row of spec/opcode_table.json (30_encoding.md R93,
R95, R99). -/

namespace Sys2Proof.Laws

/-- A row's mask and match bits, of a 7-bit command code or of a status-A word. -/
inductive Row where
  | command (mask bits : BitVec 7)
  | function (mask bits : Word)
  deriving DecidableEq, Repr

/-- An encoded form matches a row. -/
def Row.Matches : Row → Code → Prop
  | .command mask bits, .command c _ => c &&& mask = bits
  | .function mask bits, .function w => w &&& mask = bits
  | _, _ => False

/-- The row of each instruction, as the table gives it. -/
def tableRow : Instr → Row
  | .skde _ _ _ _ => .command 0x71#7 0x01#7
  | .rdsa _ _ _ _ => .command 0x72#7 0x02#7
  | .ldda _ _ _ _ => .command 0x74#7 0x04#7
  | .skat _ _ _ _ => .command 0x71#7 0x11#7
  | .rdsb _ _ _ _ => .command 0x72#7 0x12#7
  | .clrf _ _ _ _ => .command 0x74#7 0x14#7
  | .skdn _ _ _ _ => .command 0x71#7 0x21#7
  | .noRead2 _ _ _ _ => .command 0x72#7 0x22#7
  | .ldma _ _ _ _ => .command 0x74#7 0x24#7
  | .sker _ _ _ _ => .command 0x71#7 0x31#7
  | .noRead3 _ _ _ _ => .command 0x72#7 0x32#7
  | .ldwc _ _ _ _ => .command 0x74#7 0x34#7
  | .noSkip0 _ _ _ _ => .command 0x71#7 0x41#7
  | .rdcy _ _ _ _ => .command 0x72#7 0x42#7
  | .lsa0 _ _ _ _ => .command 0x74#7 0x44#7
  | .skg2 _ _ _ _ => .command 0x71#7 0x51#7
  | .rdda _ _ _ _ => .command 0x72#7 0x52#7
  | .lsac _ _ _ _ => .command 0x74#7 0x54#7
  | .noSkip2 _ _ _ _ => .command 0x71#7 0x61#7
  | .rdma _ _ _ _ => .command 0x72#7 0x62#7
  | .lsao _ _ _ _ => .command 0x74#7 0x64#7
  | .noSkip3 _ _ _ _ => .command 0x71#7 0x71#7
  | .rdwc _ _ _ _ => .command 0x72#7 0x72#7
  | .lsar _ _ _ _ => .command 0x74#7 0x74#7
  | .noPulse1 _ _ _ => .command 0x47#7 0x00#7
  | .noPulse2 _ _ _ => .command 0x47#7 0x40#7
  | .funcIdle _ _ _ _ _ => .function 0o0070000#18 0o0000000#18
  | .funcRead _ _ _ _ _ => .function 0o0070000#18 0o0010000#18
  | .funcWrite _ _ _ _ _ => .function 0o0070000#18 0o0020000#18
  | .funcRecal _ _ _ _ _ => .function 0o0070000#18 0o0030000#18
  | .funcSeek _ _ _ _ _ => .function 0o0070000#18 0o0040000#18
  | .funcRdall _ _ _ _ _ => .function 0o0070000#18 0o0050000#18
  | .funcWrall _ _ _ _ _ => .function 0o0070000#18 0o0060000#18
  | .funcWrchk _ _ _ _ _ => .function 0o0070000#18 0o0070000#18

/-- Every instruction's encoding matches its row of the table. -/
def RowMatch.Statement (i : Instr) : Prop := (tableRow i).Matches (encodeCode i)

/-- A status-A word built with function `f` has its code in bits 14:12 (R22, R24). -/
theorem functionWord_and_mask (u : UnitNo) (f : Func) (ied iea go : Bool) (flags : BitVec 9) :
    functionWord u f ied iea go flags &&& 0o0070000#18 = (0#3 ++ f.code ++ 0#12 : BitVec 18) := by
  apply BitVec.eq_of_getLsbD_eq
  intro i hi
  have hm : (0o0070000#18).getLsbD i = decide (12 ≤ i ∧ i < 15) := by
    revert i
    decide
  rw [BitVec.getLsbD_and, hm]
  simp only [functionWord, BitVec.getLsbD_append]
  have hu := u.isLt
  interval_cases i <;> simp

namespace RowMatch

theorem skde (x l r : Bool) (value : Word) : Statement (.skde x l r value) := by
  cases x <;> cases l <;> cases r <;> exact rfl

theorem rdsa (x l k : Bool) (value : Word) : Statement (.rdsa x l k value) := by
  cases x <;> cases l <;> cases k <;> exact rfl

theorem ldda (x r k : Bool) (value : Word) : Statement (.ldda x r k value) := by
  cases x <;> cases r <;> cases k <;> exact rfl

theorem skat (x l r : Bool) (value : Word) : Statement (.skat x l r value) := by
  cases x <;> cases l <;> cases r <;> exact rfl

theorem rdsb (x l k : Bool) (value : Word) : Statement (.rdsb x l k value) := by
  cases x <;> cases l <;> cases k <;> exact rfl

theorem clrf (x r k : Bool) (value : Word) : Statement (.clrf x r k value) := by
  cases x <;> cases r <;> cases k <;> exact rfl

theorem skdn (x l r : Bool) (value : Word) : Statement (.skdn x l r value) := by
  cases x <;> cases l <;> cases r <;> exact rfl

theorem noRead2 (x l k : Bool) (value : Word) : Statement (.noRead2 x l k value) := by
  cases x <;> cases l <;> cases k <;> exact rfl

theorem ldma (x r k : Bool) (value : Word) : Statement (.ldma x r k value) := by
  cases x <;> cases r <;> cases k <;> exact rfl

theorem sker (x l r : Bool) (value : Word) : Statement (.sker x l r value) := by
  cases x <;> cases l <;> cases r <;> exact rfl

theorem noRead3 (x l k : Bool) (value : Word) : Statement (.noRead3 x l k value) := by
  cases x <;> cases l <;> cases k <;> exact rfl

theorem ldwc (x r k : Bool) (value : Word) : Statement (.ldwc x r k value) := by
  cases x <;> cases r <;> cases k <;> exact rfl

theorem noSkip0 (x l r : Bool) (value : Word) : Statement (.noSkip0 x l r value) := by
  cases x <;> cases l <;> cases r <;> exact rfl

theorem rdcy (x l k : Bool) (value : Word) : Statement (.rdcy x l k value) := by
  cases x <;> cases l <;> cases k <;> exact rfl

theorem lsa0 (x r k : Bool) (value : Word) : Statement (.lsa0 x r k value) := by
  cases x <;> cases r <;> cases k <;> exact rfl

theorem skg2 (x l r : Bool) (value : Word) : Statement (.skg2 x l r value) := by
  cases x <;> cases l <;> cases r <;> exact rfl

theorem rdda (x l k : Bool) (value : Word) : Statement (.rdda x l k value) := by
  cases x <;> cases l <;> cases k <;> exact rfl

theorem lsac (x r k : Bool) (value : Word) : Statement (.lsac x r k value) := by
  cases x <;> cases r <;> cases k <;> exact rfl

theorem noSkip2 (x l r : Bool) (value : Word) : Statement (.noSkip2 x l r value) := by
  cases x <;> cases l <;> cases r <;> exact rfl

theorem rdma (x l k : Bool) (value : Word) : Statement (.rdma x l k value) := by
  cases x <;> cases l <;> cases k <;> exact rfl

theorem lsao (x r k : Bool) (value : Word) : Statement (.lsao x r k value) := by
  cases x <;> cases r <;> cases k <;> exact rfl

theorem noSkip3 (x l r : Bool) (value : Word) : Statement (.noSkip3 x l r value) := by
  cases x <;> cases l <;> cases r <;> exact rfl

theorem rdwc (x l k : Bool) (value : Word) : Statement (.rdwc x l k value) := by
  cases x <;> cases l <;> cases k <;> exact rfl

theorem lsar (x r k : Bool) (value : Word) : Statement (.lsar x r k value) := by
  cases x <;> cases r <;> cases k <;> exact rfl

theorem noPulse1 (sub : BitVec 2) (x : Bool) (value : Word) : Statement (.noPulse1 sub x value) := by
  show commandCode 0 sub x false false false &&& 0x47#7 = 0x00#7
  revert sub x
  decide

theorem noPulse2 (sub : BitVec 2) (x : Bool) (value : Word) : Statement (.noPulse2 sub x value) := by
  show commandCode 1 sub x false false false &&& 0x47#7 = 0x40#7
  revert sub x
  decide

theorem funcIdle (unit : UnitNo) (ied iea go : Bool) (flags : BitVec 9) : Statement (.funcIdle unit ied iea go flags) :=
  functionWord_and_mask unit .idle ied iea go flags

theorem funcRead (unit : UnitNo) (ied iea go : Bool) (flags : BitVec 9) : Statement (.funcRead unit ied iea go flags) :=
  functionWord_and_mask unit .read ied iea go flags

theorem funcWrite (unit : UnitNo) (ied iea go : Bool) (flags : BitVec 9) : Statement (.funcWrite unit ied iea go flags) :=
  functionWord_and_mask unit .write ied iea go flags

theorem funcRecal (unit : UnitNo) (ied iea go : Bool) (flags : BitVec 9) : Statement (.funcRecal unit ied iea go flags) :=
  functionWord_and_mask unit .recal ied iea go flags

theorem funcSeek (unit : UnitNo) (ied iea go : Bool) (flags : BitVec 9) : Statement (.funcSeek unit ied iea go flags) :=
  functionWord_and_mask unit .seek ied iea go flags

theorem funcRdall (unit : UnitNo) (ied iea go : Bool) (flags : BitVec 9) : Statement (.funcRdall unit ied iea go flags) :=
  functionWord_and_mask unit .rdall ied iea go flags

theorem funcWrall (unit : UnitNo) (ied iea go : Bool) (flags : BitVec 9) : Statement (.funcWrall unit ied iea go flags) :=
  functionWord_and_mask unit .wrall ied iea go flags

theorem funcWrchk (unit : UnitNo) (ied iea go : Bool) (flags : BitVec 9) : Statement (.funcWrchk unit ied iea go flags) :=
  functionWord_and_mask unit .wrchk ied iea go flags

end RowMatch

end Sys2Proof.Laws
end

