-- ==== Sys2Proof/Laws/Units.lean ====
section
/-! SUPPORT. What a completion step can do, said once (43_unit_state_machine.md R170 to R188). -/

namespace Sys2Proof.Machine

/-! ### Firing the event -/

theorem due_iff (s : State) (u : UnitNo) : s.due u = true ↔ (s.unit u).ev = some 0 := by
  simp [State.due]

/-- A completion call runs when the event is due, and only then (R224). -/
theorem fireEvent_due {s : State} {u : UnitNo} (h : (s.unit u).ev = some 0) (k : State → Result) :
    fireEvent u s k = k (s.unschedule u) := by
  rw [fireEvent, if_pos ((due_iff s u).2 h)]

theorem fireEvent_not_due {s : State} {u : UnitNo} (h : (s.unit u).ev ≠ some 0) (k : State → Result) :
    fireEvent u s k = .next s.refuse := by
  rw [fireEvent, if_neg fun hd => h ((due_iff s u).1 hd)]

theorem fireEvent_next {s t : State} {u : UnitNo} {k : State → Result} (h : fireEvent u s k = .next t) :
    ((s.unit u).ev = some 0 ∧ k (s.unschedule u) = .next t) ∨ ((s.unit u).ev ≠ some 0 ∧ t = s.refuse) := by
  by_cases hd : (s.unit u).ev = some 0
  · exact .inl ⟨hd, by rwa [fireEvent_due hd] at h⟩
  · rw [fireEvent_not_due hd] at h
    cases h
    exact .inr ⟨hd, rfl⟩

theorem firstPhase_eq {s : State} {u : UnitNo} (h : (s.unit u).func.second = false) (k : State → Result) :
    firstPhase u s k = k s := by
  rw [firstPhase, h]
  rfl

/-- A function without a second phase runs in the first, and is refused in the second (R99, R170). -/
theorem firstPhase_next {s t : State} {u : UnitNo} {k : State → Result} (h : firstPhase u s k = .next t) :
    ((s.unit u).func.second = false ∧ k s = .next t) ∨ ((s.unit u).func.second = true ∧ t = s.refuse) := by
  unfold firstPhase at h
  split at h
  · rename_i hs
    cases h
    exact .inr ⟨hs, rfl⟩
  · rename_i hs
    exact .inl ⟨by simpa using hs, h⟩

@[simp] theorem unschedule_unit_self (s : State) (u : UnitNo) :
    (s.unschedule u).unit u = { s.unit u with ev := none } := by
  simp [unit_unschedule]

theorem unschedule_unit_other (s : State) {u v : UnitNo} (h : v ≠ u) : (s.unschedule u).unit v = s.unit v := by
  rw [unit_unschedule, if_neg (Ne.symm h)]

/-! ### The clamps -/

theorem memoryClamp_eq (s : State) (n : Nat) : memoryClamp s n = min n (s.cfg.memSize - s.ma.toNat) := by
  simp only [memoryClamp, overrunsMemory, decide_eq_true_eq]
  split <;> omega

theorem diskClamp_eq (s : State) (n : Nat) : diskClamp s n = min n (CAP - storeOffset s.da) := by
  simp only [diskClamp, overrunsDisk, decide_eq_true_eq]
  split <;> omega

/-- The words transferred (R178 to R180). -/
theorem transferCount_eq (s : State) : transferCount s = moved s := by
  rw [transferCount, diskClamp_eq, memoryClamp_eq]
  rfl

/-- A transfer of at least one word ends inside the memory. -/
theorem transferCount_le_memory (s : State) : transferCount s = 0 ∨ s.ma.toNat + transferCount s ≤ s.cfg.memSize := by
  rw [transferCount, diskClamp_eq, memoryClamp_eq]
  omega

/-- A transfer of at least one word ends inside the store (R180, D32). -/
theorem transferCount_le_store (s : State) : transferCount s = 0 ∨ storeOffset s.da + transferCount s ≤ CAP := by
  rw [transferCount, diskClamp_eq]
  omega

/-- The words of a write with its pad are whole sectors (R183). -/
theorem add_padCount (n : Nat) : n + padCount n = (n + 255) / 256 * 256 := by
  have h : padCount n = if n % 256 = 0 then 0 else 256 - n % 256 := rfl
  by_cases hn : n % 256 = 0
  · rw [h, if_pos hn]
    omega
  · rw [h, if_neg hn]
    omega

/-! ### The clamps' reports -/

theorem reportClamps_eq (s : State) :
    reportClamps s =
      { s with
        effects := s.effects ++ (if overrunsMemory s (requested s) then [.setNXM] else [])
        stb := s.stb ||| (if overrunsDisk s (memoryClamp s (requested s)) then EOP else 0) } := by
  unfold reportClamps
  dsimp only
  split <;> split <;> simp [State.raise, State.orStb]

theorem reportClamps_unit (s : State) (u : UnitNo) : (reportClamps s).unit u = s.unit u := by
  rw [reportClamps_eq]
  rfl

/-! ### Moving the words -/

/-- What moving words leaves alone: everything but WCE, the memory, unit `u`'s store and the free-value counter. -/
structure MovedOnly (u : UnitNo) (s t : State) : Prop where
  sta : t.sta = s.sta
  stb : ∀ i, i ≠ 4 → t.stb.getLsbD i = s.stb.getLsbD i
  da : t.da = s.da
  ma : t.ma = s.ma
  wc : t.wc = s.wc
  busy : t.busy = s.busy
  irq : t.irq = s.irq
  unit : t.unit u = { s.unit u with store := (t.unit u).store }
  others : ∀ v, v ≠ u → t.unit v = s.unit v
  reply : t.reply = s.reply
  effects : t.effects = s.effects
  cfg : t.cfg = s.cfg
  host : t.host = s.host
  ioFault : t.ioFault = s.ioFault
  refused : t.refused = s.refused

theorem MovedOnly.refl (u : UnitNo) (s : State) : MovedOnly u s s := by
  constructor <;> intros <;> rfl

theorem orStb_WCE_movedOnly (u : UnitNo) (s : State) : MovedOnly u s (s.orStb WCE) := by
  constructor <;> intros <;> first | rfl | simp_all [-BitVec.getLsbD_eq_getElem]

theorem MovedOnly.drawn {u : UnitNo} {s t : State} (h : MovedOnly u s t) (n : Nat) : MovedOnly u s (t.drawn n) :=
  ⟨h.sta, h.stb, h.da, h.ma, h.wc, h.busy, h.irq, h.unit, h.others, h.reply, h.effects, h.cfg, h.host, h.ioFault,
    h.refused⟩

theorem setMem_movedOnly (u : UnitNo) (s : State) (m : Memory) : MovedOnly u s { s with mem := m } := by
  constructor <;> intros <;> rfl

theorem setStore_movedOnly (u : UnitNo) (s : State) (m : Memory) :
    MovedOnly u s (s.setUnit u { s.unit u with store := m }) := by
  constructor <;> intros <;> first | rfl | simp_all [Ne.symm]

/-- Moving words touches only what `MovedOnly` names. -/
theorem moveWords_movedOnly (m : Move) (u : UnitNo) (n : Nat) (s : State) : MovedOnly u s (moveWords m u n s) := by
  cases m with
  | read =>
    simp only [moveWords, moveRead]
    split
    · exact (setMem_movedOnly u s _).drawn n
    · exact setMem_movedOnly u s _
  | write =>
    simp only [moveWords, moveWrite]
    split
    · exact (setStore_movedOnly u s _).drawn _
    · exact setStore_movedOnly u s _
  | check =>
    simp only [moveWords, moveCheck]
    split
    · split
      · exact (orStb_WCE_movedOnly u s).drawn 1
      · exact (MovedOnly.refl u s).drawn 1
    · split
      · exact .refl u s
      · exact orStb_WCE_movedOnly u s
  | nothing => exact .refl u s

theorem moveRead_eq (u : UnitNo) (n : Nat) (s : State) :
    ∃ ws, ws.length = n ∧ (moveRead u n s).mem = writeWords s.mem s.ma.toNat ws ∧
      (s.ioFault = false → ws = readWords (s.unit u).store (storeOffset s.da) n ∧ (moveRead u n s).draws = s.draws) := by
  by_cases h : s.ioFault = true
  · refine ⟨freeWords s.draws n, freeWords_length _ _, ?_, fun h' => by rw [h] at h'; cases h'⟩
    rw [moveRead, if_pos h]
    rfl
  · refine ⟨readWords (s.unit u).store (storeOffset s.da) n, readWords_length _ _ _, ?_, fun _ => ⟨rfl, ?_⟩⟩ <;>
      rw [moveRead, if_neg h]

theorem moveWrite_eq (u : UnitNo) (n : Nat) (s : State) :
    ∃ ws, ws.length = n + padCount n ∧ (moveWrite u n s).mem = s.mem ∧
      ((moveWrite u n s).unit u).store = writeWords (s.unit u).store (storeOffset s.da) ws ∧
      (s.ioFault = false → ws = readWords s.mem s.ma.toNat n ++ List.replicate (padCount n) 0 ∧
        (moveWrite u n s).draws = s.draws) := by
  by_cases h : s.ioFault = true
  · refine ⟨freeWords s.draws (n + padCount n), freeWords_length _ _, ?_, ?_, fun h' => by rw [h] at h'; cases h'⟩
    · simp [moveWrite, h]
    · simp only [moveWrite, h, if_true]
      show ((s.setUnit u _).unit u).store = _
      rw [unit_setUnit_self]
  · refine ⟨readWords s.mem s.ma.toNat n ++ List.replicate (padCount n) 0, by simp, ?_, ?_, fun _ => ⟨rfl, ?_⟩⟩
    · simp [moveWrite, h]
    · simp [moveWrite, h]
    · simp [moveWrite, h]

theorem moveCheck_eq (u : UnitNo) (n : Nat) (s : State) :
    (moveCheck u n s).mem = s.mem ∧ (moveCheck u n s).units = s.units ∧
      (s.stb.getLsbD 4 = true → (moveCheck u n s).stb.getLsbD 4 = true) ∧
      (s.ioFault = false → (moveCheck u n s).draws = s.draws ∧
        ((moveCheck u n s).stb.getLsbD 4 = true ↔ s.stb.getLsbD 4 = true ∨
          readWords (s.unit u).store (storeOffset s.da) n ≠ readWords s.mem s.ma.toNat n)) := by
  have hor : (s.orStb WCE).stb.getLsbD 4 = true := by simp [-BitVec.getLsbD_eq_getElem]
  by_cases h : s.ioFault = true
  · cases hb : Config.freeBit s.draws <;> simp [moveCheck, h, hb, -BitVec.getLsbD_eq_getElem]
  · by_cases he : readWords (s.unit u).store (storeOffset s.da) n = readWords s.mem s.ma.toNat n <;>
      simp [moveCheck, h, he, -BitVec.getLsbD_eq_getElem]

/-- Only a read writes memory: a block of `n` words at `ma` (R182). -/
theorem moveWords_mem (m : Move) (u : UnitNo) (n : Nat) (s : State) :
    (moveWords m u n s).mem = s.mem ∨
      m = .read ∧ ∃ ws, ws.length = n ∧ (moveWords m u n s).mem = writeWords s.mem s.ma.toNat ws := by
  cases m with
  | read =>
    obtain ⟨ws, h1, h2, -⟩ := moveRead_eq u n s
    exact .inr ⟨rfl, ws, h1, h2⟩
  | write =>
    obtain ⟨ws, -, h, -⟩ := moveWrite_eq u n s
    exact .inl h
  | check => exact .inl (moveCheck_eq u n s).1
  | nothing => exact .inl rfl

/-- Only a write writes the store: whole sectors from the disk address (R183). -/
theorem moveWords_store (m : Move) (u : UnitNo) (n : Nat) (s : State) :
    ((moveWords m u n s).unit u).store = (s.unit u).store ∨
      m = .write ∧ ∃ ws, ws.length = n + padCount n ∧
        ((moveWords m u n s).unit u).store = writeWords (s.unit u).store (storeOffset s.da) ws := by
  cases m with
  | read =>
    refine .inl ?_
    show ((moveRead u n s).unit u).store = _
    by_cases h : s.ioFault = true
    · rw [moveRead, if_pos h]
      rfl
    · rw [moveRead, if_neg h]
      rfl
  | write =>
    obtain ⟨ws, h1, -, h2, -⟩ := moveWrite_eq u n s
    exact .inr ⟨rfl, ws, h1, h2⟩
  | check => exact .inl (congrArg Drive.store (unit_congr (moveCheck_eq u n s).2.1 u))
  | nothing => exact .inl rfl

/-! ### Data functions -/

/-- The three ways a data function stops before a transfer, and the transfer (R175, R176, R177). -/
theorem dataFunction_cases (m : Move) (u : UnitNo) (s : State) :
    ((s.unit u).attached = false ∧ dataFunction m u s = (endData DON SUFU s).raise (.notAttached u)) ∨
    ((s.unit u).attached = true ∧ s.cfg.writeLockEnforced = true ∧ m = .write ∧ (s.unit u).wlk = true ∧
      dataFunction m u s = endData (DON ||| WLE) 0 s) ∨
    ((s.unit u).attached = true ∧ ¬validAddress s.da ∧
      dataFunction m u s = endData DON SUFU (s.orSta (badGeometry s.da))) ∨
    ((s.unit u).attached = true ∧ (m = .write → Writable s u) ∧ validAddress s.da ∧
      dataFunction m u s = transfer m u s) := by
  unfold dataFunction
  by_cases h1 : (s.unit u).attached = false
  · exact .inl ⟨h1, by rw [if_pos h1]⟩
  · have h1' : (s.unit u).attached = true := by simpa using h1
    rw [if_neg h1]
    by_cases h2 : s.cfg.writeLockEnforced = true ∧ m = .write ∧ (s.unit u).wlk = true
    · exact .inr (.inl ⟨h1', h2.1, h2.2.1, h2.2.2, by rw [if_pos h2]⟩)
    · rw [if_neg h2]
      by_cases h3 : badGeometry s.da ≠ 0
      · exact .inr (.inr (.inl ⟨h1', fun hv => h3 ((badGeometry_eq_zero s.da).2 hv), by rw [if_pos h3]⟩))
      · have hw : m = .write → Writable s u := by
          intro hm
          by_contra hn
          simp only [Writable, not_or, Bool.not_eq_false] at hn
          exact h2 ⟨hn.1, hm, hn.2⟩
        exact .inr (.inr (.inr ⟨h1', hw, (badGeometry_eq_zero s.da).1 (by simpa using h3), by rw [if_neg h3]⟩))

/-- The state before a transfer's recompute. -/
def transferred (m : Move) (u : UnitNo) (s : State) : State :=
  { advanceRegisters (transferCount s) (moveWords m u (transferCount s) (reportClamps s)) with busy := false }

theorem transfer_eq (m : Move) (u : UnitNo) (s : State) :
    transfer m u s =
      if s.ioFault then (recompute DON 0 (transferred m u s)).raise (.ioError u)
      else recompute DON 0 (transferred m u s) := rfl

section
variable (m : Move) (u : UnitNo) (s : State)

theorem moved_after_clamps :
    MovedOnly u (reportClamps s) (moveWords m u (transferCount s) (reportClamps s)) :=
  moveWords_movedOnly m u _ _

theorem transferred_sta : (transferred m u s).sta = s.sta := by
  show (moveWords m u (transferCount s) (reportClamps s)).sta = s.sta
  rw [(moved_after_clamps m u s).sta, reportClamps_eq]

theorem transferred_stb (i : Nat) (hi : i ≠ 4) :
    (transferred m u s).stb.getLsbD i =
      (s.stb.getLsbD i || (decide (i = 7) && decide (CAP < storeOffset s.da + inMemory s))) := by
  show (moveWords m u (transferCount s) (reportClamps s)).stb.getLsbD i = _
  rw [(moved_after_clamps m u s).stb i hi, reportClamps_eq]
  have h : overrunsDisk s (memoryClamp s (requested s)) = decide (CAP < storeOffset s.da + inMemory s) := by
    rw [memoryClamp_eq]
    rfl
  rw [h]
  by_cases hc : CAP < storeOffset s.da + inMemory s <;> simp [hc, -BitVec.getLsbD_eq_getElem]

theorem transferred_da : (transferred m u s).da = addressAt (offsetOf s.da + moved s) := by
  show encodeDA (fromLinear (storeOffset (moveWords m u (transferCount s) (reportClamps s)).da + transferCount s)) = _
  rw [(moved_after_clamps m u s).da, reportClamps_eq, encodeDA_fromLinear, transferCount_eq]
  rfl

theorem transferred_ma : (transferred m u s).ma = s.ma + BitVec.ofNat 18 (moved s) := by
  show (moveWords m u (transferCount s) (reportClamps s)).ma + BitVec.ofNat 18 (transferCount s) = _
  rw [(moved_after_clamps m u s).ma, reportClamps_eq, transferCount_eq]

theorem transferred_wc : (transferred m u s).wc = s.wc + BitVec.ofNat 18 (moved s) := by
  show (moveWords m u (transferCount s) (reportClamps s)).wc + BitVec.ofNat 18 (transferCount s) = _
  rw [(moved_after_clamps m u s).wc, reportClamps_eq, transferCount_eq]

theorem transferred_busy : (transferred m u s).busy = false := rfl

theorem transferred_unit :
    (transferred m u s).unit u = { s.unit u with store := ((transferred m u s).unit u).store } := by
  have h := (moved_after_clamps m u s).unit
  rw [reportClamps_unit] at h
  exact h

theorem transferred_others (v : UnitNo) (hv : v ≠ u) : (transferred m u s).unit v = s.unit v := by
  show (moveWords m u (transferCount s) (reportClamps s)).unit v = _
  rw [(moved_after_clamps m u s).others v hv, reportClamps_eq]
  rfl

theorem transferred_effects :
    (transferred m u s).effects = s.effects ++ (if s.cfg.memSize < s.ma.toNat + wanted s then [.setNXM] else []) := by
  show (moveWords m u (transferCount s) (reportClamps s)).effects = _
  rw [(moved_after_clamps m u s).effects, reportClamps_eq]
  simp only [overrunsMemory, decide_eq_true_eq]
  rfl

theorem transferred_reply : (transferred m u s).reply = s.reply := by
  show (moveWords m u (transferCount s) (reportClamps s)).reply = _
  rw [(moved_after_clamps m u s).reply, reportClamps_eq]

theorem transferred_cfg : (transferred m u s).cfg = s.cfg := by
  show (moveWords m u (transferCount s) (reportClamps s)).cfg = _
  rw [(moved_after_clamps m u s).cfg, reportClamps_eq]

theorem transferred_host : (transferred m u s).host = s.host := by
  show (moveWords m u (transferCount s) (reportClamps s)).host = _
  rw [(moved_after_clamps m u s).host, reportClamps_eq]

theorem transferred_ioFault : (transferred m u s).ioFault = s.ioFault := by
  show (moveWords m u (transferCount s) (reportClamps s)).ioFault = _
  rw [(moved_after_clamps m u s).ioFault, reportClamps_eq]

theorem transferred_refused : (transferred m u s).refused = s.refused := by
  show (moveWords m u (transferCount s) (reportClamps s)).refused = _
  rw [(moved_after_clamps m u s).refused, reportClamps_eq]

/-- The memory after a transfer: as before, or after a read with the transferred words written (R182). -/
theorem transferred_mem :
    (transferred m u s).mem = s.mem ∨
      m = .read ∧ ∃ ws, ws.length = moved s ∧ (transferred m u s).mem = writeWords s.mem s.ma.toNat ws := by
  have h := moveWords_mem m u (transferCount s) (reportClamps s)
  rw [transferCount_eq, reportClamps_eq] at h
  have he : (transferred m u s).mem = (moveWords m u (transferCount s) (reportClamps s)).mem := rfl
  rw [he, transferCount_eq, reportClamps_eq]
  exact h

/-- The unit's store after a transfer: as before, or after a write with whole sectors written (R183). -/
theorem transferred_store :
    ((transferred m u s).unit u).store = (s.unit u).store ∨
      m = .write ∧ ∃ ws, ws.length = (moved s + 255) / 256 * 256 ∧
        ((transferred m u s).unit u).store = writeWords (s.unit u).store (storeOffset s.da) ws := by
  have h := moveWords_store m u (transferCount s) (reportClamps s)
  rw [transferCount_eq, add_padCount, reportClamps_eq] at h
  have he : (transferred m u s).unit u = (moveWords m u (transferCount s) (reportClamps s)).unit u := rfl
  rw [he, transferCount_eq, reportClamps_eq]
  exact h
end

/-! ### The function rows -/

/-- What the data function `f` does with the words (R182 to R185). -/
def moveOf (s : State) : Func → Move
  | .read => .read
  | .write => .write
  | .wrchk => .check
  | .rdall => allMove s .read
  | .wrall => allMove s .write
  | .idle | .recal | .seek => .nothing

/-- A function that writes the store. -/
theorem moveOf_eq_write {s : State} {f : Func} :
    moveOf s f = .write ↔ f = .write ∨ f = .wrall ∧ s.cfg.allMode = .asPlain := by
  cases f <;> simp [moveOf, allMove] <;> split <;> simp_all

/-- A function that writes memory. -/
theorem moveOf_eq_read {s : State} {f : Func} :
    moveOf s f = .read ↔ f = .read ∨ f = .rdall ∧ s.cfg.allMode = .asPlain := by
  cases f <;> simp [moveOf, allMove] <;> split <;> simp_all

/-- The completion step of function `f`, its event off the schedule (R170). -/
def completion (f : Func) (u : UnitNo) (s : State) : Result :=
  match f with
  | .seek => if (s.unit u).func.second then .next (seekPhase2 u s) else .next (seekPhase1 u (cylField s.da) s)
  | .recal => firstPhase u s fun s => .next (seekPhase1 u 0 s)
  | .idle => firstPhase u s fun s => .next (idleComplete s)
  | .read | .write | .rdall | .wrall | .wrchk => firstPhase u s fun s => .next (dataFunction (moveOf s f) u s)

/-- A function row is the completion of its function, whatever its other fields are. -/
theorem exec_functionRow_eq (f : Func) (u : UnitNo) (ied iea go : Bool) (flags : BitVec 9) (s : State) :
    exec (functionRow f u ied iea go flags) s = fireEvent u s (completion f u) := by
  cases f <;> rfl

/-- The steps a completion can be: idle, a data function, a seek's two phases, a refusal of an illegal tag. -/
theorem completion_cases {f : Func} {u : UnitNo} {s t : State} (h : completion f u s = .next t) :
    ((s.unit u).func.second = false ∧ f = .idle ∧ t = idleComplete s) ∨
    ((s.unit u).func.second = false ∧ Func.isData f = true ∧ t = dataFunction (moveOf s f) u s) ∨
    ((s.unit u).func.second = false ∧ ∃ c, (f = .seek ∧ c = cylField s.da ∨ f = .recal ∧ c = 0) ∧
      t = seekPhase1 u c s) ∨
    ((s.unit u).func.second = true ∧ f = .seek ∧ t = seekPhase2 u s) ∨
    ((s.unit u).func.second = true ∧ f ≠ .seek ∧ t = s.refuse) := by
  cases f with
  | seek =>
    simp only [completion] at h
    split at h
    · cases h
      exact .inr (.inr (.inr (.inl ⟨by assumption, rfl, rfl⟩)))
    · rename_i hs
      cases h
      exact .inr (.inr (.inl ⟨by simpa using hs, _, .inl ⟨rfl, rfl⟩, rfl⟩))
  | recal =>
    simp only [completion] at h
    rcases firstPhase_next h with ⟨hs, h⟩ | ⟨hs, rfl⟩
    · cases h
      exact .inr (.inr (.inl ⟨hs, _, .inr ⟨rfl, rfl⟩, rfl⟩))
    · exact .inr (.inr (.inr (.inr ⟨hs, by simp, rfl⟩)))
  | idle =>
    simp only [completion] at h
    rcases firstPhase_next h with ⟨hs, h⟩ | ⟨hs, rfl⟩
    · cases h
      exact .inl ⟨hs, rfl, rfl⟩
    · exact .inr (.inr (.inr (.inr ⟨hs, by simp, rfl⟩)))
  | _ =>
    simp only [completion] at h
    rcases firstPhase_next h with ⟨hs, h⟩ | ⟨hs, rfl⟩
    · cases h
      exact .inr (.inl ⟨hs, rfl, rfl⟩)
    · exact .inr (.inr (.inr (.inr ⟨hs, by simp, rfl⟩)))

end Sys2Proof.Machine
end

