-- ==== Sys2Proof/Laws/Step.lean ====
section
/-! SUPPORT. What a step can be, said once (44_timing.md R214, R215; 45_host_lifecycle.md R224, R228). -/

namespace Sys2Proof.Machine

theorem mem_dueUnits (s : State) (u : UnitNo) : u ∈ s.dueUnits ↔ (s.unit u).ev = some 0 := by
  have h : u ∈ allUnits := by
    revert u
    decide
  simp [State.dueUnits, h, due_iff]

theorem dueUnits_eq_nil {s : State} : s.dueUnits = [] ↔ s.nothingDue := by
  rw [List.eq_nil_iff_forall_not_mem]
  exact forall_congr' fun u => not_congr (mem_dueUnits s u)

/-- The completion that runs without a call of the host is that of a due unit. -/
theorem tieUnit_mem (k : Nat) (u : UnitNo) (us : List UnitNo) : tieUnit k (u :: us) u ∈ u :: us := by
  rw [tieUnit, List.getD_eq_getElem _ _ (Nat.mod_lt _ (by simp))]
  exact List.getElem_mem _

/-- Where a call waits for the due completions or there is none, the completion of a due unit comes first; it may draw a free
value. Where none is due, none comes. -/
theorem dueMove_cases (s : State) :
    (s.nothingDue ∧ dueMove s = none) ∨
      ∃ u n, (s.unit u).ev = some 0 ∧ dueMove s = some (.eventFired u, { s with draws := n }) := by
  unfold dueMove
  split
  · rename_i h
    exact .inl ⟨dueUnits_eq_nil.1 h, rfl⟩
  · rename_i u h
    exact .inr ⟨u, s.draws, (mem_dueUnits s u).1 (by simp [h]), rfl⟩
  · rename_i u v us h
    exact .inr ⟨_, s.draws + 1, (mem_dueUnits s _).1 (h ▸ tieUnit_mem s.draws u (v :: us)), rfl⟩

/-- The next move: a wait, the completion of a due unit, or the host's call, which finds nothing due if it waits. -/
theorem nextMove_cases (s : State) :
    (s.host = [] ∧ s.nothingDue ∧ nextMove s = none) ∨
      (∃ u n, (s.unit u).ev = some 0 ∧ nextMove s = some (.eventFired u, { s with draws := n })) ∨
      ∃ call rest, s.host = call :: rest ∧ (call.waits = true → s.nothingDue) ∧
        nextMove s = some (call, { s with host := rest }) := by
  unfold nextMove
  cases hh : s.host with
  | nil =>
    rcases dueMove_cases s with ⟨hn, h⟩ | ⟨u, n, hu, h⟩
    · exact .inl ⟨rfl, hn, h⟩
    · exact .inr (.inl ⟨u, n, hu, by simp [h, hh]⟩)
  | cons call rest =>
    dsimp only
    split
    · rcases dueMove_cases s with ⟨hn, h⟩ | ⟨u, n, hu, h⟩
      · exact .inr (.inr ⟨call, rest, rfl, fun _ => hn, by simp [h]⟩)
      · exact .inr (.inl ⟨u, n, hu, by simp [h, hh]⟩)
    · rename_i hw
      exact .inr (.inr ⟨call, rest, rfl, fun h => absurd h hw, rfl⟩)

/-- A call that does not wait, or finds nothing due, is the next step. -/
theorem step_call {s : State} {call : HostCall} {rest : List HostCall} (h : s.host = call :: rest)
    (hn : call.waits = true → s.nothingDue) : step s = hostCall call { s with host := rest } := by
  have hm : nextMove s = some (call, { s with host := rest }) := by
    unfold nextMove
    rw [h]
    dsimp only
    split
    · rename_i hw
      rcases dueMove_cases s with ⟨-, hd⟩ | ⟨u, n, hu, -⟩
      · simp [hd]
      · exact absurd hu (hn hw u)
    · rfl
  unfold step
  rw [hm]

/-- A step is one of: a wait, the completion of a due unit (which may have taken the host's call or drawn a free value
first), another call of the host, a refused completion call. -/
theorem step_cases {s t : State} (h : step s = .next t) :
    (t = s ∧ s.host = [] ∧ s.nothingDue) ∨
    (∃ u calls n, (s.unit u).ev = some 0 ∧
      completion (s.unit u).func.code u ({ s with host := calls, draws := n }.unschedule u) = .next t) ∨
    (∃ call rest, s.host = call :: rest ∧ (call.waits = true → s.nothingDue) ∧ (∀ u, call ≠ .eventFired u) ∧
      hostCall call { s with host := rest } = .next t) ∨
    (∃ u rest, s.host = .eventFired u :: rest ∧ (s.unit u).ev ≠ some 0 ∧ t = { s with host := rest }.refuse) := by
  have hfire : ∀ u calls n, exec (completionOf u { s with host := calls, draws := n })
      { s with host := calls, draws := n } = .next t →
      ((s.unit u).ev = some 0 ∧
        completion (s.unit u).func.code u ({ s with host := calls, draws := n }.unschedule u) = .next t) ∨
      ((s.unit u).ev ≠ some 0 ∧ t = { s with host := calls, draws := n }.refuse) := by
    intro u calls n hx
    rw [exec_completionOf u false false false 0 _ _, exec_functionRow_eq] at hx
    exact fireEvent_next hx
  unfold step at h
  rcases nextMove_cases s with ⟨hh, hn, hm⟩ | ⟨u, n, hu, hm⟩ | ⟨call, rest, hh, hn, hm⟩ <;> rw [hm] at h
  · cases h
    exact .inl ⟨rfl, hh, hn⟩
  · rcases hfire u s.host n h with ⟨h1, h2⟩ | ⟨h1, -⟩
    · exact .inr (.inl ⟨u, s.host, n, h1, h2⟩)
    · exact absurd hu h1
  · by_cases hc : ∃ u, call = .eventFired u
    · obtain ⟨u, rfl⟩ := hc
      rcases hfire u rest s.draws h with ⟨h1, h2⟩ | ⟨h1, h2⟩
      · exact .inr (.inl ⟨u, rest, s.draws, h1, h2⟩)
      · exact .inr (.inr (.inr ⟨u, rest, hh, h1, h2⟩))
    · exact .inr (.inr (.inl ⟨call, rest, hh, hn, fun u he => hc ⟨u, he⟩, h⟩))

end Sys2Proof.Machine
end

