-- ==== Sys2Proof/Tests/Slice0.lean ====
section
/-! SUPPORT. Tests whose expected values come from the spec's examples, and a witness for every obligation with hypotheses. -/

namespace Sys2Proof.Tests

open Machine

/-! ### Well-formedness: each check refuses an ill-formed term (30_encoding.md R94) -/

/-- A read row with the skip pulse is not the row of the first phase. -/
theorem test_read_row_with_skip_is_ill_formed :
    ¬(Instr.rdsa false false true 0).WellFormed ∧ ¬(Instr.rdsb false false true 0).WellFormed ∧
      ¬(Instr.noRead2 false false true 0).WellFormed ∧ ¬(Instr.noRead3 false false true 0).WellFormed ∧
      ¬(Instr.rdcy false false true 0).WellFormed ∧ ¬(Instr.rdda false false true 0).WellFormed ∧
      ¬(Instr.rdma false false true 0).WellFormed ∧ ¬(Instr.rdwc false false true 0).WellFormed := by decide

/-- A load row with the read pulse is not the row of the first phase. -/
theorem test_load_row_with_read_is_ill_formed :
    ¬(Instr.ldda false true false 0).WellFormed ∧ ¬(Instr.clrf false true false 0).WellFormed ∧
      ¬(Instr.ldma false true false 0).WellFormed ∧ ¬(Instr.ldwc false true false 0).WellFormed ∧
      ¬(Instr.lsa0 false true false 0).WellFormed ∧ ¬(Instr.lsac false true false 0).WellFormed ∧
      ¬(Instr.lsao false true false 0).WellFormed ∧ ¬(Instr.lsar false true false 0).WellFormed := by decide

/-- A load row with the skip pulse is not the row of the first phase. -/
theorem test_load_row_with_skip_is_ill_formed :
    ¬(Instr.ldda false false true 0).WellFormed ∧ ¬(Instr.clrf false false true 0).WellFormed ∧
      ¬(Instr.ldma false false true 0).WellFormed ∧ ¬(Instr.ldwc false false true 0).WellFormed ∧
      ¬(Instr.lsa0 false false true 0).WellFormed ∧ ¬(Instr.lsac false false true 0).WellFormed ∧
      ¬(Instr.lsao false false true 0).WellFormed ∧ ¬(Instr.lsar false false true 0).WellFormed := by decide

/-! ### Decoding: words written out from R91 and R93 (commands), R22 and R24 (functions) -/

theorem test_decode_group1 :
    decodeTableWord 8 0b0000001 = some (.skde false false false 0) ∧
    decodeTableWord 8 0b0000010 = some (.rdsa false false false 0) ∧
    decodeTableWord 8 0b0000100 = some (.ldda false false false 0) ∧
    decodeTableWord 8 0b0010001 = some (.skat false false false 0) ∧
    decodeTableWord 8 0b0010010 = some (.rdsb false false false 0) ∧
    decodeTableWord 8 0b0010100 = some (.clrf false false false 0) ∧
    decodeTableWord 8 0b0100001 = some (.skdn false false false 0) ∧
    decodeTableWord 8 0b0100010 = some (.noRead2 false false false 0) ∧
    decodeTableWord 8 0b0100100 = some (.ldma false false false 0) ∧
    decodeTableWord 8 0b0110001 = some (.sker false false false 0) ∧
    decodeTableWord 8 0b0110010 = some (.noRead3 false false false 0) ∧
    decodeTableWord 8 0b0110100 = some (.ldwc false false false 0) := by decide

theorem test_decode_group2 :
    decodeTableWord 8 0b1000001 = some (.noSkip0 false false false 0) ∧
    decodeTableWord 8 0b1000010 = some (.rdcy false false false 0) ∧
    decodeTableWord 8 0b1000100 = some (.lsa0 false false false 0) ∧
    decodeTableWord 8 0b1010001 = some (.skg2 false false false 0) ∧
    decodeTableWord 8 0b1010010 = some (.rdda false false false 0) ∧
    decodeTableWord 8 0b1010100 = some (.lsac false false false 0) ∧
    decodeTableWord 8 0b1100001 = some (.noSkip2 false false false 0) ∧
    decodeTableWord 8 0b1100010 = some (.rdma false false false 0) ∧
    decodeTableWord 8 0b1100100 = some (.lsao false false false 0) ∧
    decodeTableWord 8 0b1110001 = some (.noSkip3 false false false 0) ∧
    decodeTableWord 8 0b1110010 = some (.rdwc false false false 0) ∧
    decodeTableWord 8 0b1110100 = some (.lsar false false false 0) := by decide

/-- No pulse, the ignored bit 3, and several pulses (R91, R94, R95). -/
theorem test_decode_other_codes :
    decodeTableWord 8 0b0000000 = some (.noPulse1 0 false 0) ∧
    decodeTableWord 8 0b0101000 = some (.noPulse1 2 true 0) ∧
    decodeTableWord 8 0b1110000 = some (.noPulse2 3 false 0) ∧
    decodeTableWord 8 0b0001011 = some (.skde true false true 0) ∧
    decodeTableWord 8 0b0000110 = some (.rdsa false true false 0) ∧
    decodeTableWord 8 0b0000111 = some (.skde false true true 0) ∧
    decodeTableWord 8 0b1110111 = some (.noSkip3 false true true 0) := by decide

theorem test_decode_functions :
    decodeTableWord 24 0o0000000 = some (.funcIdle 0 false false false 0) ∧
    decodeTableWord 24 0o0110000 = some (.funcRead 1 false false false 0) ∧
    decodeTableWord 24 0o0220000 = some (.funcWrite 2 false false false 0) ∧
    decodeTableWord 24 0o0334000 = some (.funcRecal 3 true false false 0) ∧
    decodeTableWord 24 0o0442000 = some (.funcSeek 4 false true false 0) ∧
    decodeTableWord 24 0o0551000 = some (.funcRdall 5 false false true 0) ∧
    decodeTableWord 24 0o0660777 = some (.funcWrall 6 false false false 0o777) ∧
    decodeTableWord 24 0o0770001 = some (.funcWrchk 7 false false false 1) := by decide

/-- A bit where the image has none is rejected by name, and so is a wrong number of bytes. -/
theorem test_decode_rejects :
    decodeTableWord 8 0x81 = none ∧ decode [0x01, 0, 0, 0x04] = .error .paddingNotZero ∧
      decode [0, 0, 0x04] = .error .paddingNotZero ∧ decode [0x01] = .error .badLength := by
  refine ⟨by decide, rfl, rfl, rfl⟩

/-! ### States for the tests -/

/-- A field of the next state. -/
def after {α : Type} (r : Result) (f : State → α) : Option α :=
  match r with
  | .next t => some (f t)
  | .fault _ => none
  | .refused _ => none

/-- The refusal of a result. -/
def refusal (r : Result) : Option Refusal :=
  match r with
  | .refused e => some e
  | .next _ => none
  | .fault _ => none

/-- Units 0 and 1 attached with empty stores, both idle, no flag set. -/
def quiet : State :=
  let s := { State.reset with sta := 0, stb := 0 }
  (s.setUnit 0 { Drive.created with attached := true }).setUnit 1 { Drive.created with attached := true }

/-- Unit 0's go of `f` is due: it is selected, with no enable and no GO. -/
def due (f : Func) (s : State) : State :=
  { s.setUnit 0 { s.unit 0 with func := ⟨f, false⟩, ev := some 0 } with
    sta := functionWord 0 f false false false 0
    busy := true }

/-- Two words from memory address 0200 and disk address 1 (the example of R182). -/
def twoWords : State := { quiet with ma := 0o200#18, wc := 0o777776#18, da := 1 }

/-- Unit 0's store holds the example's two words at 256 and 257 (R182). -/
def withStore (s : State) : State := s.setUnit 0 { s.unit 0 with store := [(256, 0o123456#18), (257, 0o654321#18)] }

/-! ### Group 1: the examples of 41_group1_commands.md -/

theorem test_skde : after (exec (.skde false false false 0) { quiet with sta := 2 }) State.reply = some (.command 0 true) ∧
    after (exec (.skde false false false 0) quiet) State.reply = some (.command 0 false) := by decide

theorem test_rdsa : after (exec (.rdsa false false false 0) { quiet with sta := 0o143002#18 }) State.reply =
    some (.command 0o143002#18 false) := by decide

theorem test_ldda : after (exec (.ldda false false false 0o645454#18) quiet) (fun t => (t.da, t.sta)) =
    some (0o645454#18, 0o341#18) := by decide

theorem test_clrf : after (exec (.clrf false false false 0) { quiet with sta := 0o743#18, stb := 0o420#18 })
    (fun t => (t.sta, t.stb)) = some (0, 0) := by decide

theorem test_rdsb : after (exec (.rdsb false false false 0)
    ((quiet.setUnit 0 { quiet.unit 0 with func := ⟨.seek, true⟩, ev := some 5 }).orStb 3)) State.reply =
    some (.command 3 false) := by decide

theorem test_skat : after (exec (.skat false false false 0) { quiet with stb := 0o200000#18 }) State.reply =
    some (.command 0 true) := by decide

theorem test_ldma : after (exec (.ldma false false false 0o100#18) quiet) State.ma = some 0o100#18 := by decide

/-- The busy gate's example (R131). -/
theorem test_ldma_while_busy : after (exec (.ldma false false false 0o100#18) { quiet with busy := true })
    (fun t => (t.ma, t.stb, t.sta)) = some (0, 0o400#18, 1) := by decide

theorem test_skdn : after (exec (.skdn false false false 0) { quiet with sta := 1 }) State.reply =
    some (.command 0 false) := by decide

/-- R142's example, code 0x23 with DON. -/
theorem test_noRead2 : after (exec (decodeCommand 0x23#7 0) { quiet with sta := 2 }) State.reply =
    some (.command 0 true) := by decide

theorem test_ldwc : after (exec (.ldwc false false false 0o777776#18) quiet) State.wc = some 0o777776#18 := by decide

theorem test_sker : after (exec (.sker false false false 0) { quiet with sta := 1, stb := 0o400#18 }) State.reply =
    some (.command 0 true) := by decide

theorem test_noRead3 : after (exec (.noRead3 false false false 5) { quiet with wc := 2 }) State.reply =
    some (.command 5 false) := by decide

/-- R95. -/
theorem test_noPulse : after (exec (.noPulse1 0 false 5) { quiet with sta := 2 }) (fun t => (t.reply, t.sta)) =
    some (.command 5 false, 2) ∧
    after (exec (.noPulse2 3 false 5) { quiet with sta := 2 }) (fun t => (t.reply, t.sta)) =
      some (.command 5 false, 2) := by decide

/-! ### Group 2: the examples of 42_group2_commands.md -/

theorem test_noSkip : after (exec (.noSkip0 false false false 7) quiet) State.reply = some (.command 7 false) ∧
    after (exec (.noSkip2 false false false 7) quiet) State.reply = some (.command 7 false) ∧
    after (exec (.noSkip3 false false false 7) quiet) State.reply = some (.command 7 false) := by decide

theorem test_rdcy : after (exec (.rdcy false false false 0) (quiet.setUnit 0 { quiet.unit 0 with cyl := 5 }))
    State.reply = some (.command 5 false) := by decide

/-- R152, R156, R157, R158. -/
theorem test_reads : after (exec (.skg2 false false false 0) quiet) State.reply = some (.command 0 true) ∧
    after (exec (.rdda false false false 0) { quiet with da := 2 }) State.reply = some (.command 2 false) ∧
    after (exec (.rdma false false false 0) { quiet with ma := 0o102#18 }) State.reply = some (.command 0o102#18 false) ∧
    after (exec (.rdwc false false false 0) { quiet with wc := 0o777776#18 }) State.reply =
      some (.command 0o777776#18 false) := by decide

/-- A merged read (R92). -/
theorem test_read_merge : after (exec (.rdda false false false 4) { quiet with da := 2 }) State.reply =
    some (.command 6 false) ∧
    after (exec (.rdda false false false 4)
      { quiet with da := 2, cfg := { Config.standard with readMerge := .replace } }) State.reply =
      some (.command 2 false) := by decide

/-- Vector E-4 (no phase runs, and the refusal is recorded) and R161's example. -/
theorem test_lsa0 : after (exec (.lsa0 false false false 0) quiet) id = some { quiet with refused := true } ∧
    after (exec (.lsa0 false false false 0)
      { quiet with sta := 0o143002#18, cfg := { Config.standard with g2S0Load := .clearField } })
      (fun t => (t.sta, t.busy)) = some (0o2#18, false) := by decide

theorem test_lsac : after (exec (.lsac false false false 0o776000#18) { quiet with sta := 0o143000#18 })
    (fun t => (t.sta, t.busy)) = some (0o142000#18, false) := by decide

theorem test_lsao : after (exec (.lsao false false false 0o2000#18) quiet) (fun t => (t.sta, t.busy)) =
    some (0o2000#18, false) := by decide

theorem test_lsar : after (exec (.lsar false false false 0o43777#18) { quiet with sta := 2 })
    (fun t => (t.sta, t.stb, t.busy, (t.unit 0).func, (t.unit 0).ev)) =
      some (0o43000#18, 3, true, ⟨.seek, false⟩, some 2) := by decide

/-- R210's example: 10 × 4 + 10 ticks for a read four cylinders away. -/
theorem test_go_delay : after (exec (.lsar false false false 0o11000#18)
    ({ quiet with da := 0o16000#18 }.setUnit 0 { quiet.unit 0 with cyl := 3 })) (fun t => (t.unit 0).ev) =
      some (some 50) := by decide

/-! ### Completion steps: the examples of 43_unit_state_machine.md -/

theorem test_funcIdle : after (exec (.funcIdle 0 false false false 0) (due .idle quiet)) (fun t => (t.busy, t.sta)) =
    some (false, 0) := by decide

/-- R172's example: from cylinder 0 to 5 takes 50 ticks. -/
theorem test_funcSeek_phase1 :
    after (exec (.funcSeek 0 false false false 0) (due .seek { quiet with da := 0o12000#18 }))
      (fun t => ((t.unit 0).cyl, (t.unit 0).ev, (t.unit 0).func, t.busy)) = some (5, some 50, ⟨.seek, true⟩, false) := by
  decide

/-- R174's example: attention of unit 0, and the interrupt with IEA. -/
theorem test_funcSeek_phase2 :
    after (exec (.funcSeek 0 false false false 0)
      { quiet.setUnit 0 { quiet.unit 0 with func := ⟨.seek, true⟩, ev := some 0 } with sta := 0o2000#18 })
      (fun t => (t.stb, t.irq)) = some (0o400000#18, true) := by decide

theorem test_funcRecal :
    after (exec (.funcRecal 0 false false false 0) (due .recal (quiet.setUnit 0 { quiet.unit 0 with cyl := 7 })))
      (fun t => ((t.unit 0).cyl, (t.unit 0).ev)) = some (0, some 70) := by decide

/-- R182's example. -/
theorem test_funcRead :
    after (exec (.funcRead 0 false false false 0) (due .read (withStore twoWords)))
      (fun t => (t.mem, t.wc, t.ma, t.da)) =
      some ([(0o200, 0o123456#18), (0o201, 0o654321#18)], 0, 0o202#18, 2) := by decide +kernel

theorem test_funcRdall :
    after (exec (.funcRdall 0 false false false 0) (due .rdall (withStore twoWords))) (fun t => (t.mem, t.sta)) =
      some ([(0o200, 0o123456#18), (0o201, 0o654321#18)], 0o50002#18) := by decide +kernel

/-- R183's example: two words and a pad of 254 zeros, over a store that was not zero there. -/
theorem test_funcWrite :
    after (exec (.funcWrite 0 false false false 0)
      (due .write ({ twoWords with mem := [(0o200, 0o123456#18), (0o201, 0o654321#18)] }.setUnit 0
        { twoWords.unit 0 with store := [(258, 1), (511, 1), (512, 1)] })))
      (fun t => ((t.unit 0).store, t.sta)) =
      some ([(256, 0o123456#18), (257, 0o654321#18), (512, 1)], 0o20002#18) := by decide +kernel

theorem test_funcWrall :
    after (exec (.funcWrall 0 false false false 0)
      (due .wrall { twoWords with mem := [(0o200, 1)], cfg := { Config.standard with allMode := .noData } }))
      (fun t => ((t.unit 0).store, t.wc)) = some ([], 0) := by decide +kernel

/-- R184's example: no WCE when the words agree, WCE when one differs. -/
theorem test_funcWrchk :
    after (exec (.funcWrchk 0 false false false 0)
      (due .wrchk (withStore { twoWords with mem := [(0o200, 0o123456#18), (0o201, 0o654321#18)] }))) State.stb = some 0 ∧
    after (exec (.funcWrchk 0 false false false 0)
      (due .wrchk (withStore { twoWords with mem := [(0o200, 0o123456#18)] }))) State.stb = some 0o20#18 := by
  decide +kernel

/-- R179's example: eight of sixteen words fit. -/
theorem test_memory_clamp :
    after (exec (.funcRead 0 false false false 0) (due .read { quiet with ma := 0o17770#18, wc := 0o777760#18 }))
      (fun t => (t.effects, t.wc)) = some ([.setNXM], 0o777770#18) := by decide +kernel

/-- R180's and R186's example: the last sector. -/
theorem test_disk_clamp :
    after (exec (.funcRead 0 false false false 0) (due .read { quiet with da := 0o625151#18, wc := 0o777000#18 }))
      (fun t => (t.stb, t.wc, t.da)) = some (0o200#18, 0o777400#18, 0o624000#18) := by decide +kernel

/-- R175's example, on the detached unit 2. -/
theorem test_detached_read :
    after (exec (.funcRead 2 false false true 0)
      { quiet.setUnit 2 { quiet.unit 2 with func := ⟨.read, false⟩, ev := some 0 } with sta := 0o211000#18, busy := true })
      (fun t => (t.sta, t.stb, t.effects, t.busy)) =
      some (0o211003#18, 0o1001#18, [.notAttached 2], false) := by decide +kernel

/-- R177's example: sector 10. -/
theorem test_bad_address :
    after (exec (.funcRead 0 false false false 0) (due .read { quiet with da := 0o12#18 })) (fun t => (t.sta, t.stb)) =
      some (0o10043#18, 0o1000#18) := by decide +kernel

/-! ### Geometry (20_memory.md R66 to R68) and the step -/

/-- The end of the pack (R67). -/
theorem test_end_of_pack : fromLinear 10393600 = ⟨202, 0, 0⟩ ∧ toLinear ⟨202, 19, 9⟩ = 10393344 := by decide

/-- Every table word placed after reset runs as its row (the reserved load is refused, vector E-4). -/
theorem test_placed_commands_run :
    ((List.range 128).all fun w =>
      let r := step (State.reset.withFetchWord 8 w)
      after r State.refused = some (decide (w &&& 0b1110100 = 0b1000100)) ∧
        ((after r State.reply).any (· ≠ .none) ∨ w &&& 0b1110100 = 0b1000100)) = true := by
  decide +kernel

theorem test_placed_functions_run :
    ((List.range 8).all fun f => (after (step (State.reset.withFetchWord 24 (f * 4096))) State.busy).isSome) = true := by
  decide +kernel

/-- A detach comes before the completion of a due read, which then finds the unit detached (R175, R222); a tick waits for
it (R214). -/
theorem test_detach_before_due_completion :
    after (step { due .read quiet with host := [.detach 0] }) (fun t => ((t.unit 0).attached, (t.unit 0).ev)) =
      some (false, some 0) ∧
    after (step { due .read quiet with host := [.tick] }) (fun t => (t.host, (t.unit 0).ev)) = some ([.tick], none) := by
  decide +kernel

/-- A reset cancels an event that is due (R262, R228). -/
theorem test_reset_cancels_due_event :
    after (step { due .read quiet with host := [.reset] }) (fun t => ((t.unit 0).ev, t.busy, t.sta)) =
      some (none, false, 0) := by decide

/-- An image longer than CAP is no move, also for a unit the configuration does not have (R228, U13). -/
theorem test_attach_too_long :
    refusal (step { quiet with host := [.attach 1 ⟨10393601, []⟩] }) = some .imageTooLong ∧
    refusal (step { quiet with host := [.attach 1 ⟨10393601, []⟩], cfg := { Config.standard with numUnits := 1 } }) =
      some .imageTooLong := by decide

/-! ### Witnesses: for every obligation with hypotheses, a state and operands that meet them, clause by clause -/

/-- The state with these host calls to come. -/
def calling (calls : List HostCall) (s : State) : State := { s with host := calls }

/-- The state with other parameters. -/
def withCfg (cfg : Config) (s : State) : State := { s with cfg := cfg }

/-- Unit 0 settling: the second phase of its seek is due. -/
def settling : State := quiet.setUnit 0 { quiet.unit 0 with func := ⟨.seek, true⟩, ev := some 0 }

/-- `LDMA 5` is the next call. -/
theorem witness_StepRunsTheNextCommand :
    let s := calling [.command 0x24#7 5] quiet
    s.host = .command 0x24#7 5 :: [] ∧ s.nothingDue ∧ (Instr.ldma false false false 5).WellFormed ∧
      encodeCode (.ldma false false false 5) = .command 0x24#7 5 := by decide

theorem witness_StepRunsTheDueCompletion_called :
    (calling [.eventFired 0] (due .read quiet)).host = .eventFired 0 :: [] := by decide

/-- With no call, with a tick and with a command to come. -/
theorem witness_StepRunsTheDueCompletion_single :
    (due .read quiet).nextWaits ∧ (calling [.tick] (due .read quiet)).nextWaits ∧
      (calling [.command 0x24#7 5] (due .read quiet)).nextWaits ∧ ((due .read quiet).unit 0).ev = some 0 ∧
      ∀ v, ((due .read quiet).unit v).ev = some 0 → v = 0 :=
  ⟨.inl rfl, .inr (.inl ⟨[], rfl⟩), .inr (.inr ⟨0x24#7, 5, [], rfl⟩), by decide, by decide⟩

/-- Unit 0's read and unit 1's settling are both due. -/
def tied : State := (due .read quiet).setUnit 1 { quiet.unit 1 with func := ⟨.seek, true⟩, ev := some 0 }

theorem witness_TiedCompletionsRunInSomeOrder :
    tied.nextWaits ∧ (0 : UnitNo) ≠ 1 ∧ (tied.unit 0).ev = some 0 ∧ (tied.unit 1).ev = some 0 :=
  ⟨.inl rfl, by decide, by decide, by decide⟩

theorem witness_DecodeOfEncodeIsTheInstruction :
    (Instr.skde true true true 0o777777#18).WellFormed ∧ (Instr.lsar true false false 1).WellFormed ∧
      (Instr.noPulse2 3 true 0).WellFormed ∧ (Instr.funcWrchk 7 true true true 0o777).WellFormed := by decide

theorem witness_EncodeOfDecodeIsTheBytes :
    decode [0x24, 0x05, 0x00, 0x00] = .ok (.ldma false false false 5) ∧
      decode [0x00, 0xF0, 0x03] = .ok (.funcWrchk 7 false false false 0) := ⟨rfl, rfl⟩

/-- Code 0x03 as its skip row and as its read row. -/
theorem witness_EqualWordsHaveEqualMeanings :
    Instr.skde false false true 0 ≠ .rdsa false false true 0 ∧
      encode (.skde false false true 0) = encode (.rdsa false false true 0) := ⟨by decide, rfl⟩

theorem witness_Group2SkipTests :
    quiet.cfg.g2SkipCond = .always ∧
      (withCfg { Config.standard with g2SkipCond := .flags 2 0 } quiet).cfg.g2SkipCond = .flags 2 0 ∧
      (withCfg { Config.standard with g2SkipCond := .uninterpreted } quiet).cfg.g2SkipCond = .uninterpreted ∧
      (withCfg { Config.standard with g2S0Load := .clearField } quiet).cfg.g2S0Load = .clearField := by decide

theorem witness_RegisterReads :
    (withCfg { Config.standard with g2S0Load := .clearField } quiet).cfg.g2S0Load = .clearField := by decide

/-- Both cases of every gated load: `LoadDiskAddress`, `LoadMemoryAddressAndWordCount`, `ClearFlags`. -/
theorem witness_GatedLoad : quiet.busy = false ∧ (due .read quiet).busy = true := by decide

theorem witness_BusyGateRejectsEveryLoad :
    (due .read quiet).busy = true ∧ (0x04#7).getLsbD 2 = true ∧ ¬(reservedCode 0x04#7 ∧ quiet.cfg.g2S0Load = .refuse) ∧
      (0x77#7).getLsbD 2 = true ∧ ¬(reservedCode 0x77#7 ∧ quiet.cfg.g2S0Load = .refuse) := by decide

theorem witness_OnlyTheReservedCodeIsRefused :
    (reservedCode 0x44#7 ∧ quiet.cfg.g2S0Load = .refuse) ∧ (reservedCode 0x4F#7 ∧ quiet.cfg.g2S0Load = .refuse) ∧
      ¬(reservedCode 0x43#7 ∧ quiet.cfg.g2S0Load = .refuse) ∧ ¬(reservedCode 0x54#7 ∧ quiet.cfg.g2S0Load = .refuse) := by
  decide

theorem witness_ReservedLoadByItsParameter :
    quiet.cfg.g2S0Load = .refuse ∧
      (withCfg { Config.standard with g2S0Load := .clearField } quiet).cfg.g2S0Load = .clearField ∧
      (withCfg { Config.standard with g2S0Load := .clearField } quiet).busy = false ∧
      (withCfg { Config.standard with g2S0Load := .clearField } (due .read quiet)).busy = true := by decide

/-- GO left 0 by each load, and a pending unit selected. -/
theorem witness_StatusALoadWithoutGo :
    quiet.busy = false ∧ bit (afterLsac { quiet with sta := 0o1000#18 } 0) 9 = false ∧
      bit (afterLsao quiet 0o2000#18) 9 = false ∧ bit (afterLsar quiet 0o2000#18) 9 = false ∧
      settling.busy = false ∧ bit (afterLsar settling 0o1000#18) 9 = true ∧
      (settling.unit (unitField (afterLsar settling 0o1000#18))).ev ≠ none := by decide

/-- GO left 1 by each load, in both modes of the clear-only load. -/
theorem witness_GoStartsTheSelectedUnit :
    let s := { quiet with sta := 0o1000#18 }
    s.busy = false ∧ bit (afterLsac s 0o1000#18) 9 = true ∧
      bit (afterLsac (withCfg { Config.standard with clearLoadMode := .bitClear } s) 0) 9 = true ∧
      bit (afterLsao quiet 0o1000#18) 9 = true ∧ bit (afterLsar quiet 0o171000#18) 9 = true ∧
      (quiet.unit (unitField (afterLsar quiet 0o171000#18))).ev = none ∧ (s.unit 0).ev = none := by decide

theorem witness_Group1NeverTouchesUnits : (0x3F#7).getLsbD 6 = false := by decide

theorem witness_IdleCompletion :
    ((due .idle quiet).unit 0).ev = some 0 ∧ ((due .idle quiet).unit 0).func.second = false := by decide

theorem witness_SeekPhaseOne :
    let s := due .seek { quiet with da := 0o777777#18 }
    s.da.extractLsb' 10 8 = 255#8 ∧ (s.unit 0).ev = some 0 ∧ (s.unit 0).func.second = false ∧
      ((due .recal quiet).unit 0).ev = some 0 ∧ ((due .recal quiet).unit 0).func.second = false := by decide

theorem witness_SeekPhaseTwo : (settling.unit 0).ev = some 0 ∧ (settling.unit 0).func.second = true := by decide

theorem witness_CompletionNotDueIsRefused :
    (quiet.unit 0).ev ≠ some 0 ∧ ((quiet.setUnit 0 { quiet.unit 0 with ev := some 1 }).unit 0).ev ≠ some 0 := by decide

theorem witness_SecondPhaseOfOtherFunctionsIsRefused :
    let s := quiet.setUnit 0 { quiet.unit 0 with func := ⟨.read, true⟩, ev := some 0 }
    (s.unit 0).ev = some 0 ∧ (s.unit 0).func.second = true ∧ Func.read ≠ .seek := by decide

theorem witness_DetachedDataFunction :
    let s := due .read (quiet.setUnit 0 Drive.created)
    Func.read ∈ [Func.read, .write, .rdall, .wrall, .wrchk] ∧ (s.unit 0).ev = some 0 ∧
      (s.unit 0).func.second = false ∧ (s.unit 0).attached = false := by decide

/-- A locked unit, for WRITE and for WRALL as plain. -/
def locked : State := quiet.setUnit 0 { quiet.unit 0 with wlk := true }

theorem witness_WriteLockStopsWrites :
    let s := due .wrall locked
    s.cfg.allMode = .asPlain ∧ (s.unit 0).ev = some 0 ∧ (s.unit 0).func.second = false ∧ (s.unit 0).attached = true ∧
      s.cfg.writeLockEnforced = true ∧ (s.unit 0).wlk = true := by decide

/-- Each component at its first bad value; a write of an unlocked unit, and of a locked one that the lock does not bind. -/
theorem witness_BadAddressAborts :
    ¬validAddress 0o12#18 ∧ ¬validAddress 0o1200#18 ∧ ¬validAddress 0o626000#18 ∧
      Writable (due .write quiet) 0 ∧
      Writable (due .write (withCfg { Config.standard with writeLockEnforced := false } locked)) 0 ∧
      ((due .write quiet).unit 0).ev = some 0 ∧ ((due .write quiet).unit 0).func.second = false ∧
      ((due .write quiet).unit 0).attached = true := by decide

/-- A transfer of two words, of none (memory clamp), of the last sector (disk clamp), with and without a storage fault, and
both ways of WRITE and WRALL, READ and RDALL. -/
theorem witness_TransferReady :
    TransferReady (due .read twoWords) 0 ∧ moved (due .read twoWords) = 2 ∧
      TransferReady (due .wrall { twoWords with ma := 0o777777#18 }) 0 ∧
      moved (due .wrall { twoWords with ma := 0o777777#18 }) = 0 ∧
      TransferReady (due .write { quiet with da := 0o625151#18, wc := 0o777000#18 }) 0 ∧
      moved (due .write { quiet with da := 0o625151#18, wc := 0o777000#18 }) = 256 ∧
      (due .read twoWords).ioFault = false ∧ (due .read { twoWords with ioFault := true }).ioFault = true ∧
      TransferReady (due .read { twoWords with ioFault := true }) 0 ∧ (due .rdall twoWords).cfg.allMode = .asPlain := by
  decide

theorem witness_ReadFillsMemoryFromTheStore :
    TransferReady (due .read (withStore twoWords)) 0 ∧ (due .read (withStore twoWords)).mem.wf ∧
      moved (due .read (withStore twoWords)) = 2 := by decide

theorem witness_WriteFillsTheStoreFromMemory :
    TransferReady (due .write twoWords) 0 ∧ Writable (due .write twoWords) 0 ∧
      ((due .write twoWords).unit 0).store.wf ∧ (moved (due .write twoWords) + 255) / 256 * 256 = 256 := by decide

/-- One differing word, and none. -/
theorem witness_WriteCheckComparesEveryWord :
    let s := due .wrchk (withStore twoWords)
    TransferReady s 0 ∧ s.ioFault = false ∧ 1 < moved s ∧
      readWord (s.unit 0).store (offsetOf s.da + 1) ≠ readWord s.mem (s.ma.toNat + 1) ∧
      readWord ((due .wrchk twoWords).unit 0).store 256 = readWord (due .wrchk twoWords).mem 128 := by decide

theorem witness_AllFunctionsWithoutData :
    let s := due .rdall (withCfg { Config.standard with allMode := .noData } twoWords)
    s.cfg.allMode = .noData ∧ TransferReady s 0 := by decide

theorem witness_WriteCheckAfterReadAgrees :
    let s := due .read (withStore twoWords)
    TransferReady s 0 ∧ s.mem.wf ∧ s.ioFault = false := by decide

/-- A unit the configuration has, its last one, and one it does not have; an image one word too long. -/
theorem witness_AttachBindsTheImage :
    let s := calling [.attach 7 (imageOf [1, 2])] quiet
    s.host = .attach 7 (imageOf [1, 2]) :: [] ∧ [1, 2].length ≤ 10393600 ∧ (7 : UnitNo).val < s.cfg.numUnits ∧
      10393600 < (Image.mk 10393601 []).len ∧
      (calling [.attach 7 ⟨10393601, []⟩] s).host = .attach 7 ⟨10393601, []⟩ :: [] ∧
      (withCfg { Config.standard with numUnits := 7 } s).cfg.numUnits ≤ (7 : UnitNo).val := by decide

theorem witness_DetachKeepsThePendingEvent :
    let s := calling [.detach 0] (quiet.setUnit 0 { quiet.unit 0 with ev := some 3 })
    s.host = .detach 0 :: [] := by decide

theorem witness_WriteLockChangeShowsAtOnce :
    let s := calling [.setWriteLock 0 true] quiet
    s.host = .setWriteLock 0 true :: [] := by decide

theorem witness_ResetClearsTheController :
    let s := calling [.reset] (locked.setUnit 1 { quiet.unit 1 with ev := some 9, cyl := 9 })
    s.host = .reset :: [] := by decide

theorem witness_ReadyPredicate : (calling [.ready] quiet).host = .ready :: [] := by decide

theorem witness_TickAdvancesEveryEvent :
    let s := calling [.tick] (quiet.setUnit 0 { quiet.unit 0 with ev := some 1 })
    s.host = .tick :: [] ∧ s.nothingDue ∧ (s.unit 0).ev = some (0 + 1) ∧ (s.unit 1).ev = none := by decide

/-- The last address of memory and the first past it. -/
theorem witness_HostMemoryWrite :
    let s := calling [.poke 8191 5] quiet
    s.host = .poke 8191 5 :: [] ∧ s.mem.wf ∧ 8191 < s.cfg.memSize ∧ s.cfg.memSize ≤ 8192 := by decide

theorem witness_RecomputeDerivesTheStatus :
    (1 : UnitNo) = unitField (((quiet.sta &&& ~~~0o0000015#18) ||| 0o100000#18)) := by decide

/-- The last sector's address, and offsets at the edges of the round trips. -/
theorem witness_GeometryRoundTrips :
    validAddress 0o625151#18 ∧ bit 0o625151#18 4 = false ∧ (40599 < 40600) ∧
      (10393343 < 10393600 ∧ 10393343 % 256 ≠ 0 ∧ 10393343 / 256 < 40599) := by decide

/-- A busy state with its unit's seek due, and its step. -/
theorem witness_InvariantIsKeptByEveryStep :
    Invariant (due .seek quiet) ∧ (after (step (due .seek quiet)) State.busy).isSome = true := by
  refine ⟨⟨by decide, by decide, by decide, by decide, by decide, by decide, by decide, by decide, by decide, ?_, ?_⟩,
    by decide⟩
  · exact ⟨fun _ => ⟨0, by decide⟩, fun _ => by decide⟩
  · decide

theorem witness_CylinderChangesOnlyBySeekOrReset :
    let s := due .seek { quiet with da := 0o12000#18 }
    after (step s) (fun t => decide ((t.unit 0).cyl ≠ (s.unit 0).cyl)) = some true := by decide

theorem witness_AttentionIsRaisedOnlyBySettling :
    bit settling.stb 17 = false ∧ after (step settling) (fun t => bit t.stb 17) = some true := by decide

/-- An idle go on unit 0 acknowledges its attention. -/
theorem witness_AttentionIsClearedOnlyByGoOrReset :
    let s := calling [.command 0x74#7 0o1000#18] { quiet with stb := 0o400000#18 }
    bit s.stb 17 = true ∧ after (step s) (fun t => bit t.stb 17) = some false := by decide

theorem witness_ReadWriteFieldChangesOnlyByLoads :
    let s := calling [.command 0x64#7 0o2000#18] quiet
    after (step s) (fun t => decide (bit t.sta 10 ≠ bit s.sta 10)) = some true := by decide

/-- `LDMA 5` is called while busy. -/
def callingWhileBusy : State := calling [.command 0x04#7 5] { quiet with busy := true }

theorem witness_RegistersAreFrozenWhileBusy :
    callingWhileBusy.busy = true ∧ callingWhileBusy.nothingDue ∧ (∀ rest, callingWhileBusy.host ≠ .reset :: rest) ∧
      (after (step callingWhileBusy) State.busy).isSome = true :=
  ⟨by decide, by decide, fun _ h => absurd h (by simp [callingWhileBusy, calling]), by decide⟩

theorem witness_MemoryChangesOnlyByReadsAndTheHost :
    let s := due .read (withStore twoWords)
    s.mem.wf ∧ after (step s) (fun t => decide (readWord t.mem 128 ≠ readWord s.mem 128)) = some true := by
  decide +kernel

/-- An attach; the first and the last word of the sector that the completion of a WRITE fills, over another store; and a
detach, after which the store reads as before (log 18). -/
theorem witness_StoresChangeOnlyByWritesAndAttach :
    (let s := calling [.attach 1 (imageOf [5])] quiet
     (s.unit 1).store.wf ∧
       after (step s) (fun t => decide (readWord (t.unit 1).store 0 ≠ readWord (s.unit 1).store 0)) = some true) ∧
    (let s := (due .write twoWords).setUnit 0
       { (due .write twoWords).unit 0 with store := [(256, 1), (511, 1), (512, 1)] }
     (s.unit 0).store.wf ∧
       after (step s) (fun t => [256, 511, 512].map fun a =>
         decide (readWord (t.unit 0).store a ≠ readWord (s.unit 0).store a)) = some [true, true, false]) ∧
    (let s := calling [.detach 0] (withStore quiet)
     (s.unit 0).store.wf ∧
       after (step s) (fun t => decide (readWord (t.unit 0).store 256 = readWord (s.unit 0).store 256)) = some true) := by
  decide +kernel

theorem witness_DoneIsSetOnlyByDataFunctions :
    let s := due .read twoWords
    bit s.sta 1 = false ∧ after (step s) (fun t => bit t.sta 1) = some true := by decide +kernel

theorem witness_EventsComeDueOnlyByTicks :
    let s := calling [.tick] (quiet.setUnit 0 { quiet.unit 0 with ev := some 1 })
    s.cfg.wf ∧ after (step s) (fun t => (t.unit 0).ev) = some (some 0) := by decide

/-- The call, a refused command with nothing due, a refused completion call, and a refused tag. -/
theorem witness_ParametersDrawAndRefusalMark :
    (calling [.storageFault true] quiet).host = .storageFault true :: [] ∧
      after (step (calling [.storageFault true] quiet)) State.ioFault = some true ∧
      after (step (calling [.command 0x44#7 0] quiet)) State.refused = some true ∧
      after (step (calling [.eventFired 0] quiet)) State.refused = some true ∧
      after (step (quiet.setUnit 0 { quiet.unit 0 with func := ⟨.read, true⟩, ev := some 0 }))
        (fun t => (t.refused, (t.unit 0).ev)) = some (true, none) := by decide

end Sys2Proof.Tests
end

/-! What a step keeps of the parameters, the fault draw and the refusal mark (00_scope.md R5, 43_unit_state_machine.md R181,
93_implementation_defined.md U1). -/

namespace Sys2Proof.Machine

/-! ### Commands keep the context or are refused -/

theorem SameContext.trans {s t r : State} (h : SameContext s t) (k : SameContext t r) : SameContext s r := by
  obtain ⟨hcfg, hhost, hfault, hrefused⟩ := h
  obtain ⟨kcfg, khost, kfault, krefused⟩ := k
  exact ⟨kcfg.trans hcfg, khost.trans hhost, kfault.trans hfault, krefused.trans hrefused⟩

theorem sameContext_recompute (pa pb : Word) (s : State) : SameContext s (recompute pa pb s) :=
  (sameOutside_recompute pa pb s).context

theorem sameContext_endCommand (w : Word) (k : Bool) (s : State) : SameContext s (endCommand w k s) :=
  (unchanged_endCommand w k s).outside.context

theorem sameContext_goCheck (s : State) : SameContext s (goCheck s) := by
  rcases goCheck_cases s with ⟨-, -, h⟩ | ⟨-, h⟩ <;> rw [h]
  · simp [SameContext]
  · exact ⟨rfl, rfl, rfl, rfl⟩

theorem LoadResult.sameContext {c : BitVec 7} {v : Word} {s x : State} (h : LoadResult c v s x) : SameContext s x := by
  cases h with
  | statusA _ _ _ n _ => exact sameContext_goCheck { s with sta := n }
  | _ => exact ⟨rfl, rfl, rfl, rfl⟩

theorem command_context {c : BitVec 7} {v : Word} {s t : State} (h : exec (decodeCommand c v) s = .next t) :
    SameContext s t ∨ (reservedCode c ∧ s.cfg.g2S0Load = .refuse ∧ t = s.refuse) := by
  rcases command_cases h with ⟨w, k, x, rfl, hx⟩ | hr
  · exact .inl (hx.sameContext.trans (sameContext_endCommand w k x))
  · exact .inr hr

/-! ### Completions keep the context or are refused -/

theorem sameContext_endData (pa pb : Word) (s : State) : SameContext s (endData pa pb s) :=
  sameContext_recompute pa pb { s with busy := false }

theorem sameContext_transfer (m : Move) (u : UnitNo) (s : State) : SameContext s (transfer m u s) := by
  have hmoved : SameContext s (transferred m u s) :=
    ⟨transferred_cfg m u s, transferred_host m u s, transferred_ioFault m u s, transferred_refused m u s⟩
  have hend : SameContext s (recompute DON 0 (transferred m u s)) := hmoved.trans (sameContext_recompute DON 0 _)
  rw [transfer_eq]
  split <;> exact hend

theorem sameContext_dataFunction (m : Move) (u : UnitNo) (s : State) : SameContext s (dataFunction m u s) := by
  rcases dataFunction_cases m u s with ⟨-, h⟩ | ⟨-, -, -, -, h⟩ | ⟨-, -, h⟩ | ⟨-, -, -, h⟩ <;> rw [h]
  · exact sameContext_endData DON SUFU s
  · exact sameContext_endData (DON ||| WLE) 0 s
  · exact sameContext_endData DON SUFU (s.orSta (badGeometry s.da))
  · exact sameContext_transfer m u s

theorem sameContext_seekPhase1 (u : UnitNo) (c : BitVec 8) (s : State) : SameContext s (seekPhase1 u c s) := by
  simp [SameContext, seekPhase1]

theorem completion_context {f : Func} {u : UnitNo} {s t : State} (h : completion f u s = .next t) :
    SameContext s t ∨ ((s.unit u).func.second = true ∧ f ≠ .seek ∧ t = s.refuse) := by
  rcases completion_cases h with ⟨-, -, rfl⟩ | ⟨-, -, rfl⟩ | ⟨-, c, -, rfl⟩ | ⟨-, -, rfl⟩ | hr
  · exact .inl ⟨rfl, rfl, rfl, rfl⟩
  · exact .inl (sameContext_dataFunction _ u s)
  · exact .inl (sameContext_seekPhase1 u c s)
  · exact .inl (sameContext_recompute 0 (ATTN u) s)
  · exact .inr hr

/-! ### The host's other calls -/

/-- A call other than a completion keeps the context, or it sets the fault draw, or it is a refused reserved load. -/
theorem hostCall_context {call : HostCall} {s t : State} (hc : ∀ u, call ≠ .eventFired u)
    (h : hostCall call s = .next t) :
    SameContext s t ∨ (∃ b, call = .storageFault b ∧ t = { s with ioFault := b }) ∨
      ∃ c v, call = .command c v ∧ reservedCode c ∧ s.cfg.g2S0Load = .refuse ∧ t = s.refuse := by
  cases call with
  | command c v =>
    rcases command_context h with hs | hr
    · exact .inl hs
    · exact .inr (.inr ⟨c, v, rfl, hr⟩)
  | eventFired u => exact absurd rfl (hc u)
  | tick =>
    cases h
    exact .inl ⟨rfl, rfl, rfl, rfl⟩
  | reset =>
    cases h
    exact .inl (by simp [SameContext, resetController])
  | attach u i =>
    rcases attachUnit_next h with rfl | ⟨-, -, rfl⟩
    · exact .inl ⟨rfl, rfl, rfl, rfl⟩
    · exact .inl (by simp [SameContext])
  | detach u =>
    cases h
    exact .inl (by simp [SameContext, detachUnit])
  | setWriteLock u b =>
    cases h
    exact .inl (by simp [SameContext, setWriteLock])
  | ready =>
    cases h
    exact .inl ⟨rfl, rfl, rfl, rfl⟩
  | poke a v =>
    obtain ⟨-, rfl⟩ := pokeMemory_next h
    exact .inl ⟨rfl, rfl, rfl, rfl⟩
  | storageFault b =>
    cases h
    exact .inr (.inl ⟨b, rfl, rfl⟩)

/-! ### Every step -/

/-- The next step of `s` may be refused: a reserved load with nothing due (R97), a completion call for an event that is not
due (R224), or a due completion with an illegal tag (R170). -/
def MayRefuse (s : State) : Prop :=
  (s.nothingDue ∧ s.cfg.g2S0Load = .refuse ∧ ∃ c v rest, s.host = .command c v :: rest ∧ reservedCode c) ∨
    (∃ u rest, s.host = .eventFired u :: rest ∧ (s.unit u).ev ≠ some 0) ∨
    ∃ u, (s.unit u).ev = some 0 ∧ (s.unit u).func.second = true ∧ (s.unit u).func.code ≠ .seek

/-- A step keeps the context up to the host's list and the counter of draws, or it is the call that sets the fault draw, or
it is refused. -/
theorem step_context {s t : State} (h : step s = .next t) :
    (∃ calls, SameContext { s with host := calls } t) ∨
      (∃ b rest, s.host = .storageFault b :: rest ∧ t = { s with host := rest, ioFault := b }) ∨
      (MayRefuse s ∧ t.refused = true ∧ t.cfg = s.cfg ∧ t.ioFault = s.ioFault) := by
  rcases step_cases h with ⟨rfl, -, -⟩ | ⟨u, calls, n, hdue, hrun⟩ | ⟨call, rest, hhost, hwait, hother, hrun⟩ |
    ⟨u, rest, hhost, hnot, rfl⟩
  · exact .inl ⟨_, rfl, rfl, rfl, rfl⟩
  · rcases completion_context hrun with hs | ⟨hsecond, hcode, rfl⟩
    · exact .inl ⟨calls, hs⟩
    · rw [unschedule_unit_self] at hsecond
      exact .inr (.inr ⟨.inr (.inr ⟨u, hdue, hsecond, hcode⟩), rfl, rfl, rfl⟩)
  · rcases hostCall_context hother hrun with hs | ⟨b, rfl, rfl⟩ | ⟨c, v, rfl, hcode, hrefuse, rfl⟩
    · exact .inl ⟨rest, hs⟩
    · exact .inr (.inl ⟨b, rest, hhost, rfl⟩)
    · exact .inr (.inr ⟨.inl ⟨hwait rfl, hrefuse, c, v, rest, hhost, hcode⟩, rfl, rfl, rfl⟩)
  · exact .inr (.inr ⟨.inr (.inl ⟨u, rest, hhost, hnot⟩), rfl, rfl, rfl⟩)

/-- Settles O60: the call's step by `step_call`, every step by the three cases of `step_context`. -/
theorem parametersDrawAndRefusalMark : Obligations.ParametersDrawAndRefusalMark := by
  unfold Obligations.ParametersDrawAndRefusalMark
  refine ⟨fun s b rest hhost => step_call hhost (by simp [HostCall.waits]), fun s t h => ?_⟩
  rcases step_context h with ⟨calls, hcfg, -, hfault, hrefused⟩ | ⟨b, rest, hhost, rfl⟩ | ⟨hmay, hset, hcfg, hfault⟩
  · exact ⟨hcfg, fun hne => absurd hfault hne, fun hs => hrefused.trans hs, fun hne => absurd hrefused hne⟩
  · exact ⟨rfl, fun _ => ⟨b, rest, hhost⟩, id, fun hne => absurd rfl hne⟩
  · exact ⟨hcfg, fun hne => absurd hfault hne, fun _ => hset, fun _ => hmay⟩

end Sys2Proof.Machine

/-! Every step keeps the invariant. It has two parts: what a recompute relies on (`Sound`: parameters, memories, records,
media flags, the owner of the busy flag) and what a recompute derives (`Reported`: ERR, the interrupt level, SUFU against
SUSU). An operation has to keep the first part only; the recompute at its end restores the second (10_state.md R27, R33 to
R36; 40_status_model.md R119; 70_reset_and_hazards.md R267, R270). -/

namespace Sys2Proof.Machine

/-! ### The two parts of the invariant -/

/-- What the invariant says of unit `u`'s record by itself (R34, R36, R62). -/
structure RecordOk (cfg : Config) (u : UnitNo) (d : Drive) : Prop where
  store : d.store.wf ∧ d.store.below CAP
  absent : cfg.numUnits ≤ u.val → d.attached = false
  tag : d.func.second = true → d.func.code = .seek

/-- The media-error flags read 0 in two status words (R22, R25). -/
abbrev MediaClear (a b : Word) : Prop := a &&& HNF = 0 ∧ b &&& (TME ||| FME ||| WPE ||| LON) = 0

/-- The busy flag and the unit it belongs to (R32, R119 (c), R267). -/
structure Owned (s : State) : Prop where
  busy : s.busy = true ↔ ∃ u, s.inFirstPhase u
  owner : ∀ u, s.inFirstPhase u → s.sel = u ∧ funcField s.sta = (s.unit u).func.code

/-- The part of the invariant that a recompute relies on. -/
structure Sound (s : State) : Prop where
  cfg : s.cfg.wf
  mem : s.mem.wf ∧ s.mem.below s.cfg.memSize
  records : ∀ u, RecordOk s.cfg u (s.unit u)
  media : MediaClear s.sta s.stb
  owned : Owned s

/-- The part of the invariant that a recompute derives. -/
structure Reported (s : State) : Prop where
  err : hasAny s.sta ERR = (hasAny s.sta EFLAGS_A || hasAny s.stb EFLAGS_B)
  irq : s.irq = irqLevel s.sta s.stb
  unsafeOrSeeking : ¬(hasAny s.stb SUFU = true ∧ hasAny s.stb SUSU = true)

theorem invariant_iff (s : State) : Invariant s ↔ Sound s ∧ Reported s := by
  constructor
  · intro h
    exact ⟨⟨h.cfg, h.mem, fun u => ⟨h.store u, h.absent u, h.tag u⟩, h.media, ⟨h.busy, h.owner⟩⟩,
      ⟨h.err, h.irq, h.unsafeOrSeeking⟩⟩
  · rintro ⟨hs, hr⟩
    exact ⟨hs.cfg, hs.mem, fun u => (hs.records u).store, fun u => (hs.records u).absent, fun u => (hs.records u).tag,
      hr.err, hr.irq, hs.media, hr.unsafeOrSeeking, hs.owned.busy, hs.owned.owner⟩

theorem Invariant.sound {s : State} (h : Invariant s) : Sound s := ((invariant_iff s).1 h).1

theorem Invariant.reported {s : State} (h : Invariant s) : Reported s := ((invariant_iff s).1 h).2

/-- The registers, outputs and model fields that the invariant does not speak of. -/
theorem Sound.congr {s t : State} (h : Sound s)
    (e : t = { s with
      da := t.da, ma := t.ma, wc := t.wc, irq := t.irq, reply := t.reply, effects := t.effects, refused := t.refused
      host := t.host, ioFault := t.ioFault, draws := t.draws }) : Sound t := by
  rw [e]
  exact ⟨h.cfg, h.mem, h.records, h.media, ⟨h.owned.busy, h.owned.owner⟩⟩

/-- A step that leaves the status registers and the interrupt level alone has only the first part to keep. -/
theorem Invariant.of_sound {s t : State} (h : Invariant s) (ht : Sound t) (hsta : t.sta = s.sta) (hstb : t.stb = s.stb)
    (hirq : t.irq = s.irq) : Invariant t := by
  refine (invariant_iff t).2 ⟨ht, ?_⟩
  obtain ⟨herr, hlevel, hunsafe⟩ := h.reported
  exact ⟨by rw [hsta, hstb, herr], by rw [hirq, hsta, hstb, hlevel], by rwa [hstb]⟩

theorem Invariant.congr {s t : State} (h : Invariant s)
    (e : t = { s with
      da := t.da, ma := t.ma, wc := t.wc, reply := t.reply, effects := t.effects, refused := t.refused
      host := t.host, ioFault := t.ioFault, draws := t.draws }) : Invariant t := by
  have hsta : t.sta = s.sta := by rw [e]
  have hstb : t.stb = s.stb := by rw [e]
  have hirq : t.irq = s.irq := by rw [e]
  exact h.of_sound (h.sound.congr (by rw [hirq]; exact e)) hsta hstb hirq

/-! ### Media flags -/

theorem mediaClear_iff (a b : Word) :
    MediaClear a b ↔ a.getLsbD 4 = false ∧ ∀ i, i = 2 ∨ i = 3 ∨ i = 5 ∨ i = 6 → b.getLsbD i = false := by
  refine and_congr ?_ ?_ <;> rw [← not_iff_not, ← ne_eq, and_ne_zero_iff]
  · simp [-BitVec.getLsbD_eq_getElem]
  · simp [-BitVec.getLsbD_eq_getElem, or_assoc]
    grind

/-- Status words with no media flag that was clear before have none. -/
theorem MediaClear.mono {a b a' b' : Word} (h : MediaClear a b) (ha : a'.getLsbD 4 = true → a.getLsbD 4 = true)
    (hb : ∀ i, i = 2 ∨ i = 3 ∨ i = 5 ∨ i = 6 → b'.getLsbD i = true → b.getLsbD i = true) : MediaClear a' b' := by
  rw [mediaClear_iff] at h ⊢
  obtain ⟨h4, hrest⟩ := h
  refine ⟨Bool.eq_false_iff.2 fun ht => ?_, fun i hi => Bool.eq_false_iff.2 fun ht => ?_⟩
  · exact Bool.eq_false_iff.1 h4 (ha ht)
  · exact Bool.eq_false_iff.1 (hrest i hi) (hb i hi ht)

/-! ### The owner of the busy flag -/

theorem inFirstPhase_iff (s : State) (u : UnitNo) :
    s.inFirstPhase u ↔ (s.unit u).ev.isSome = true ∧ (s.unit u).func.second = false := Iff.rfl

/-- An idle controller has no first completion to come, and that is all the owner clauses ask. -/
theorem Owned.of_idle {s : State} (hb : s.busy = false) (hn : ∀ u, ¬s.inFirstPhase u) : Owned s := by
  refine ⟨?_, fun u hu => absurd hu (hn u)⟩
  simp only [hb, Bool.false_eq_true, false_iff]
  exact fun ⟨u, hu⟩ => hn u hu

theorem Owned.not_first {s : State} (h : Owned s) (hb : s.busy = false) (u : UnitNo) : ¬s.inFirstPhase u := by
  intro hu
  have := h.busy.2 ⟨u, hu⟩
  simp [hb] at this

/-- At most one unit's first completion is to come. -/
theorem Owned.unique {s : State} (h : Owned s) {u v : UnitNo} (hu : s.inFirstPhase u) (hv : s.inFirstPhase v) : v = u :=
  (h.owner v hv).1.symm.trans (h.owner u hu).1

/-- The owner clauses depend on the busy flag, on which first completions are to come, on the units' tags and on the UNIT and
FUNC fields. -/
theorem Owned.congr {s t : State} (h : Owned s) (hb : t.busy = s.busy) (hp : ∀ u, t.inFirstPhase u ↔ s.inFirstPhase u)
    (hf : ∀ u, (t.unit u).func = (s.unit u).func) (ha : ∀ i, 12 ≤ i → t.sta.getLsbD i = s.sta.getLsbD i) : Owned t := by
  have hsel : t.sel = s.sel := unitField_congr fun i hi _ => ha i (by omega)
  have hfunc : funcField t.sta = funcField s.sta := funcField_congr fun i hi _ => ha i hi
  constructor
  · simp only [hb, hp, h.busy]
  · intro u hu
    rw [hsel, hfunc, hf]
    exact h.owner u ((hp u).1 hu)

/-! ### A recompute gives the invariant -/

/-- The bits a recompute may be passed as pending: DON and WLE, SUFU and attention (R174 to R177, R187). -/
structure PendingOk (pa pb : Word) : Prop where
  sta : ∀ i, pa.getLsbD i = true → i = 1 ∨ i = 8
  stb : ∀ i, pb.getLsbD i = true → 9 ≤ i

theorem pendingOk_zero : PendingOk 0 0 := ⟨by simp, by simp⟩

theorem pendingOk_attention (u : UnitNo) : PendingOk 0 (ATTN u) := ⟨by simp, by simp; omega⟩

theorem pendingOk_done : PendingOk DON 0 := ⟨by simp, by simp⟩

theorem pendingOk_done_unsafe : PendingOk DON SUFU := ⟨by simp, by simp⟩

theorem pendingOk_done_locked : PendingOk (DON ||| WLE) 0 := ⟨by simp, by simp⟩

theorem PendingOk.sta_false {pa pb : Word} (h : PendingOk pa pb) {i : Nat} (h1 : i ≠ 1) (h8 : i ≠ 8) :
    pa.getLsbD i = false :=
  Bool.eq_false_iff.2 fun hi => (h.sta i hi).elim h1 h8

theorem PendingOk.stb_false {pa pb : Word} (h : PendingOk pa pb) {i : Nat} (hi : i < 9) : pb.getLsbD i = false :=
  Bool.eq_false_iff.2 fun hb => absurd (h.stb i hb) (by omega)

section
variable {pa pb : Word} {s : State} (hp : PendingOk pa pb)
include hp

theorem sound_recompute (h : Sound s) : Sound (recompute pa pb s) where
  cfg := by simpa using h.cfg
  mem := by simpa using h.mem
  records := by simpa using h.records
  media := by
    refine h.media.mono (fun ht => ?_) (fun i hi ht => ?_)
    · simpa [getLsbD_recompute_sta_kept, hp.sta_false, -BitVec.getLsbD_eq_getElem] using ht
    · rw [getLsbD_recompute_stb_kept pa pb s (by omega) (by omega) (by omega), hp.stb_false (by omega)] at ht
      simpa using ht
  owned := by
    refine h.owned.congr (by simp) (by simp [inFirstPhase_iff]) (by simp) fun i hi => ?_
    rw [getLsbD_recompute_sta_kept pa pb s (by omega) (by omega) (by omega), hp.sta_false (by omega) (by omega)]
    simp

/-- SUFU may be passed as a pending bit only where the selected unit does not seek. -/
theorem reported_recompute (hs : pb.getLsbD 9 = true → s.seeking s.sel = false) : Reported (recompute pa pb s) where
  err := hasAny_recompute_err pb s pa (hp.sta_false (by omega) (by omega))
  irq := recompute_irq pa pb s
  unsafeOrSeeking := by
    have hsel : unitField (mergedA pa s) = s.sel := by
      rw [← unitField_recompute pa pb s]
      exact sel_recompute pa pb s fun i hi _ => hp.sta_false (by omega) (by omega)
    rw [hasAny_SUFU, hasAny_SUSU, getLsbD_recompute_stb, getLsbD_recompute_stb, hsel]
    simp only [getLsbD_mergedB, getLsbD_dynamicB, hp.stb_false (show 1 < 9 by omega)]
    grind

theorem invariant_recompute (h : Sound s) (hs : pb.getLsbD 9 = true → s.seeking s.sel = false) :
    Invariant (recompute pa pb s) :=
  (invariant_iff _).2 ⟨sound_recompute hp h, reported_recompute hp hs⟩
end

/-- The recompute at the end of a call. -/
theorem Sound.invariant_recompute {s : State} (h : Sound s) : Invariant (recompute 0 0 s) :=
  Machine.invariant_recompute pendingOk_zero h (by simp)

/-! ### Changing one unit's record or the status registers -/

theorem records_setUnit {s : State} {u : UnitNo} {d : Drive} (h : ∀ v, RecordOk s.cfg v (s.unit v))
    (hd : RecordOk s.cfg u d) (v : UnitNo) : RecordOk s.cfg v ((s.setUnit u d).unit v) := by
  rw [unit_setUnit]
  split
  · rename_i huv
    exact huv ▸ hd
  · exact h v

theorem Sound.setUnit {s : State} {u : UnitNo} {d : Drive} (h : Sound s) (hd : RecordOk s.cfg u d)
    (hf : d.func = (s.unit u).func) (he : d.ev.isSome = (s.unit u).ev.isSome) : Sound (s.setUnit u d) where
  cfg := h.cfg
  mem := h.mem
  records := records_setUnit h.records hd
  media := h.media
  owned := by
    refine h.owned.congr rfl (fun v => ?_) (fun v => ?_) (fun _ _ => rfl) <;>
      by_cases huv : u = v
    · subst huv
      simp [inFirstPhase_iff, hf, he]
    · simp [inFirstPhase_iff, huv]
    · subst huv
      simp [hf]
    · simp [huv]

/-- In an idle controller a record may change to any other that awaits no first completion. -/
theorem Sound.setUnit_idle {s : State} {u : UnitNo} {d : Drive} (h : Sound s) (hb : s.busy = false)
    (hd : RecordOk s.cfg u d) (hn : ¬(d.ev.isSome = true ∧ d.func.second = false)) : Sound (s.setUnit u d) where
  cfg := h.cfg
  mem := h.mem
  records := records_setUnit h.records hd
  media := h.media
  owned := by
    refine Owned.of_idle hb fun v hv => ?_
    rw [inFirstPhase_iff, unit_setUnit] at hv
    split at hv
    · exact hn hv
    · exact h.owned.not_first hb v hv

/-- In an idle controller the status registers may take any words without media flags. -/
theorem Sound.withStatus {s : State} {a b : Word} (h : Sound s) (hb : s.busy = false) (hm : MediaClear a b) :
    Sound { s with sta := a, stb := b } :=
  ⟨h.cfg, h.mem, h.records, hm, .of_idle hb (h.owned.not_first hb)⟩

/-- Status B may take any word without media flags. -/
theorem Sound.withStb {s : State} {b : Word} (h : Sound s) (hm : MediaClear s.sta b) : Sound { s with stb := b } :=
  ⟨h.cfg, h.mem, h.records, hm, ⟨h.owned.busy, h.owned.owner⟩⟩

/-! ### Commands -/

/-- A go in an idle controller makes the selected unit the owner (R165). -/
theorem sound_startUnit {s : State} (h : Sound s) (hb : s.busy = false) :
    Sound (startUnit s.sel (funcField s.sta) s) where
  cfg := by simpa using h.cfg
  mem := by simpa using h.mem
  records v := by
    obtain ⟨hstore, habsent, -⟩ := h.records s.sel
    have hrecord : RecordOk s.cfg s.sel
        { s.unit s.sel with func := ⟨funcField s.sta, false⟩, ev := some (goDelay s s.sel (funcField s.sta)) } :=
      ⟨hstore, habsent, by simp⟩
    rw [startUnit_unit, startUnit_cfg, ← unit_setUnit]
    exact records_setUnit h.records hrecord v
  media := by
    refine h.media.mono (fun ht => ?_) (fun i _ ht => ?_)
    · rw [getLsbD_startUnit_sta] at ht
      simp at ht
    · rw [getLsbD_startUnit_stb, Bool.and_eq_true, Bool.and_eq_true] at ht
      exact ht.1.1
  owned := by
    have hkept : ∀ i, 12 ≤ i → (startUnit s.sel (funcField s.sta) s).sta.getLsbD i = s.sta.getLsbD i := by
      intro i hi
      rw [getLsbD_startUnit_sta]
      simp [show ¬(i = 1 ∨ i = 4 ∨ i = 8) by omega, show i ≠ 9 by omega]
    constructor
    · exact ⟨fun _ => ⟨s.sel, by simp [inFirstPhase_iff]⟩, fun _ => startUnit_busy _ _ _⟩
    · intro v hv
      have hsel : s.sel = v := by
        by_contra hne
        rw [inFirstPhase_iff, startUnit_unit, if_neg hne] at hv
        exact h.owned.not_first hb v hv
      subst hsel
      refine ⟨unitField_congr fun i hi _ => hkept i (by omega), ?_⟩
      rw [startUnit_unit, if_pos rfl]
      exact funcField_congr fun i hi _ => hkept i hi

theorem sound_goCheck {s : State} (h : Sound s) (hb : s.busy = false) : Sound (goCheck s) := by
  rcases goCheck_cases s with ⟨-, -, hg⟩ | ⟨-, hg⟩ <;> rw [hg]
  · exact sound_startUnit h hb
  · exact h

theorem LoadResult.sound {c : BitVec 7} {v : Word} {s x : State} (hx : LoadResult c v s x) (h : Sound s) : Sound x := by
  cases hx with
  | none => exact h
  | rejected =>
    refine h.withStb (h.media.mono id fun i hi ht => ?_)
    simpa [show i ≠ 8 by omega, -BitVec.getLsbD_eq_getElem] using ht
  | diskAddress hb =>
    refine (h.withStatus hb (a := (lddaLoad v s).sta) (b := s.stb) (h.media.mono (fun ht => ?_) fun _ _ => id)).congr rfl
    simpa [lddaLoad, getLsbD_badGeometry, -BitVec.getLsbD_eq_getElem] using ht
  | clearFlags hb =>
    refine (h.withStatus hb (a := (clrfLoad v s).sta) (b := (clrfLoad v s).stb)
      (h.media.mono (fun ht => ?_) fun i hi ht => ?_)).congr rfl
    · simp [clrfLoad, -BitVec.getLsbD_eq_getElem] at ht
    · have hkept : s.stb.getLsbD i = true ∧ (~~~STICKY_B).getLsbD i = true := by
        simpa [clrfLoad, -BitVec.getLsbD_eq_getElem, -BitVec.getLsbD_not] using ht
      exact hkept.1
  | memoryAddress hb => exact h.congr rfl
  | wordCount hb => exact h.congr rfl
  | statusA hb _ _ n hn =>
    have hm : MediaClear n s.stb := h.media.mono (fun ht => hn 4 (by omega) ▸ ht) fun _ _ => id
    exact sound_goCheck (h.withStatus hb hm) hb

theorem invariant_command {c : BitVec 7} {v : Word} {s t : State} (h : Invariant s)
    (ht : exec (decodeCommand c v) s = .next t) : Invariant t := by
  rcases command_cases ht with ⟨w, k, x, rfl, hx⟩ | ⟨-, -, rfl⟩
  · exact (hx.sound h.sound).invariant_recompute.congr rfl
  · exact h.congr rfl

/-! ### Completions -/

theorem records_unschedule {s : State} (h : ∀ v, RecordOk s.cfg v (s.unit v)) (u v : UnitNo) :
    RecordOk s.cfg v ((s.unschedule u).unit v) := by
  have hrecord : RecordOk s.cfg u { s.unit u with ev := none } := ⟨(h u).store, (h u).absent, (h u).tag⟩
  exact records_setUnit h hrecord v

/-- The due completion of the owner finds, once busy is cleared, an idle controller (R171, R187). -/
theorem sound_unschedule_first {s : State} {u : UnitNo} (h : Sound s) (hu : s.inFirstPhase u) :
    Sound { s.unschedule u with busy := false } where
  cfg := h.cfg
  mem := h.mem
  records := records_unschedule h.records u
  media := h.media
  owned := by
    refine Owned.of_idle rfl fun v hv => ?_
    change (s.unschedule u).inFirstPhase v at hv
    rw [inFirstPhase_iff, unit_unschedule] at hv
    split at hv
    · simp at hv
    · rename_i hne
      exact hne (h.owned.unique hu hv).symm

/-- A settle event off the schedule changes no owner. -/
theorem sound_unschedule_second {s : State} {u : UnitNo} (h : Sound s) (hu : (s.unit u).func.second = true) :
    Sound (s.unschedule u) where
  cfg := h.cfg
  mem := h.mem
  records := records_unschedule h.records u
  media := h.media
  owned := by
    refine h.owned.congr rfl (fun v => ?_) (fun v => ?_) (fun _ _ => rfl) <;> by_cases huv : v = u
    · subst huv
      simp [inFirstPhase_iff, hu]
    · simp [inFirstPhase_iff, unschedule_unit_other s huv]
    · subst huv
      simp
    · simp [unschedule_unit_other s huv]

/-- What a transfer moves stays inside the memory and the store (R179, R180). -/
theorem sound_transferred {m : Move} {u : UnitNo} {s : State} (h : Sound { s with busy := false })
    (hda : validAddress s.da) : Sound (transferred m u s) where
  cfg := by
    rw [transferred_cfg]
    exact h.cfg
  mem := by
    rw [transferred_cfg]
    rcases transferred_mem m u s with hm | ⟨-, ws, hlen, hm⟩ <;> rw [hm]
    · exact h.mem
    · refine ⟨writeWords_wf h.mem.1 _ ws, ?_⟩
      rcases transferCount_le_memory s with hz | hle
      · rw [transferCount_eq, ← hlen, List.length_eq_zero_iff] at hz
        subst hz
        exact h.mem.2
      · rw [transferCount_eq, ← hlen] at hle
        exact writeWords_below h.mem.2 _ ws hle
  records v := by
    rw [transferred_cfg]
    by_cases hv : v = u
    · subst hv
      obtain ⟨⟨hwf, hbelow⟩, habsent, htag⟩ := h.records v
      rw [transferred_unit]
      refine ⟨?_, habsent, htag⟩
      rcases transferred_store m v s with hm | ⟨-, ws, hlen, hm⟩ <;> rw [hm]
      · exact ⟨hwf, hbelow⟩
      · have hfirst := storeOffset_lt hda
        have hcount := transferCount_le_store s
        have hsector := storeOffset_mod s.da
        rw [transferCount_eq] at hcount
        rw [CAP_eq] at *
        exact ⟨writeWords_wf hwf _ ws, writeWords_below hbelow _ ws (by omega)⟩
    · rw [transferred_others m u s v hv]
      exact h.records v
  media := by
    refine h.media.mono (fun ht => ?_) fun i hi ht => ?_
    · rwa [transferred_sta] at ht
    · rw [transferred_stb m u s i (by omega)] at ht
      simpa [show i ≠ 7 by omega] using ht
  owned := by
    refine Owned.of_idle rfl fun v hv => h.owned.not_first rfl v ?_
    rw [inFirstPhase_iff] at hv
    by_cases hvu : v = u
    · subst hvu
      rw [transferred_unit] at hv
      exact hv
    · rw [transferred_others m u s v hvu] at hv
      exact hv

/-- A data function of the selected unit, its event off the schedule (R175 to R188). -/
theorem invariant_dataFunction {m : Move} {u : UnitNo} {s : State} (h : Sound { s with busy := false })
    (hs : s.seeking s.sel = false) : Invariant (dataFunction m u s) := by
  rcases dataFunction_cases m u s with ⟨-, e⟩ | ⟨-, -, -, -, e⟩ | ⟨-, -, e⟩ | ⟨-, -, hda, e⟩ <;> rw [e]
  · exact (invariant_recompute pendingOk_done_unsafe h fun _ => hs).congr rfl
  · exact invariant_recompute pendingOk_done_locked h (by simp)
  · have hm : MediaClear (s.sta ||| badGeometry s.da) s.stb :=
      h.media.mono (fun ht => by simpa [getLsbD_badGeometry, -BitVec.getLsbD_eq_getElem] using ht) fun _ _ => id
    refine invariant_recompute pendingOk_done_unsafe (h.withStatus rfl hm) fun _ => ?_
    have hsel : unitField (s.sta ||| badGeometry s.da) = unitField s.sta :=
      unitField_congr fun i hi _ => by
        simp [getLsbD_badGeometry, show i ≠ 5 by omega, show i ≠ 6 by omega, show i ≠ 7 by omega]
    show s.seeking (unitField (s.sta ||| badGeometry s.da)) = false
    rw [hsel]
    exact hs
  · have ht : Invariant (recompute DON 0 (transferred m u s)) :=
      invariant_recompute pendingOk_done (sound_transferred h hda) (by simp)
    rw [transfer_eq]
    split
    · exact ht.congr rfl
    · exact ht

/-- Positioning, phase 1: the unit goes on as a settling one (R172). -/
theorem invariant_seekPhase1 {u : UnitNo} {s : State} (h : Sound { s with busy := false }) (c : BitVec 8) :
    Invariant (seekPhase1 u c s) := by
  obtain ⟨hstore, habsent, -⟩ := h.records u
  have hrecord : RecordOk s.cfg u
      { s.unit u with
        cyl := c, func := ⟨.seek, true⟩, ev := some (seekDelay s.cfg c.toNat (s.unit u).cyl.toNat) } :=
    ⟨hstore, habsent, fun _ => rfl⟩
  exact (h.setUnit_idle rfl hrecord (by simp)).invariant_recompute

theorem invariant_completion {u : UnitNo} {s t : State} (h : Invariant s) (hdue : (s.unit u).ev = some 0)
    (ht : completion (s.unit u).func.code u (s.unschedule u) = .next t) : Invariant t := by
  have hfirst : (s.unit u).func.second = false → s.inFirstPhase u := fun hp => ⟨by simp [State.pending, hdue], hp⟩
  have hcases := completion_cases ht
  rw [unschedule_unit_self] at hcases
  rcases hcases with ⟨hp, -, rfl⟩ | ⟨hp, -, rfl⟩ | ⟨hp, c, -, rfl⟩ | ⟨hp, -, rfl⟩ | ⟨hp, hcode, -⟩
  · exact h.of_sound (sound_unschedule_first h.sound (hfirst hp)) rfl rfl rfl
  · refine invariant_dataFunction (sound_unschedule_first h.sound (hfirst hp)) ?_
    have hsel : (s.unschedule u).sel = u := (h.owner u (hfirst hp)).1
    rw [hsel]
    simp [State.seeking, State.pending]
  · exact invariant_seekPhase1 (sound_unschedule_first h.sound (hfirst hp)) c
  · exact invariant_recompute (pendingOk_attention u) (sound_unschedule_second h.sound hp) (by simp; omega)
  · exact absurd (h.tag u hp) hcode

/-! ### The host's other calls -/

theorem sound_advanceTick {s : State} (h : Sound s) : Sound (advanceTick s) where
  cfg := h.cfg
  mem := h.mem
  records v := by
    rw [advanceTick_unit]
    obtain ⟨hstore, habsent, htag⟩ := h.records v
    exact ⟨hstore, habsent, htag⟩
  media := h.media
  owned := h.owned.congr rfl (by simp [inFirstPhase_iff, advanceTick_unit]) (by simp [advanceTick_unit]) fun _ _ => rfl

theorem invariant_resetController {s : State} (h : Sound s) : Invariant (resetController s) := by
  have hunit := unit_map s (fun d : Drive => { d with ev := none, cyl := 0, func := ⟨.idle, false⟩ })
  unfold resetController
  refine Sound.invariant_recompute ⟨h.cfg, h.mem, fun v => ?_, by simp [MediaClear], .of_idle rfl fun v hv => ?_⟩
  · obtain ⟨hstore, habsent, -⟩ := h.records v
    change RecordOk s.cfg v (State.unit { s with units := _ } v)
    rw [hunit]
    exact ⟨hstore, habsent, by simp⟩
  · change State.inFirstPhase { s with units := _ } v at hv
    rw [inFirstPhase_iff, hunit] at hv
    simp at hv

theorem invariant_hostCall {call : HostCall} {s t : State} (h : Invariant s) (hc : ∀ u, call ≠ .eventFired u)
    (ht : hostCall call s = .next t) : Invariant t := by
  cases call with
  | command c v => exact invariant_command h ht
  | eventFired u => exact absurd rfl (hc u)
  | tick =>
    cases ht
    exact h.of_sound (sound_advanceTick h.sound) rfl rfl rfl
  | reset =>
    cases ht
    exact invariant_resetController h.sound
  | attach u i =>
    rcases attachUnit_next ht with rfl | ⟨hu, hlen, rfl⟩
    · exact h.congr rfl
    · obtain ⟨hwf, hbelow⟩ := Image.store_wf_below i
      have hrecord : RecordOk s.cfg u { s.unit u with store := Image.store i, attached := true } :=
        ⟨⟨hwf, fun c hcell => Nat.lt_of_lt_of_le (hbelow c hcell) hlen⟩, fun habs => by omega, h.tag u⟩
      exact (h.sound.setUnit hrecord rfl rfl).invariant_recompute.congr rfl
  | detach u =>
    cases ht
    have hrecord : RecordOk s.cfg u { s.unit u with attached := false } := ⟨h.store u, fun _ => rfl, h.tag u⟩
    exact (h.sound.setUnit hrecord rfl rfl).invariant_recompute.congr rfl
  | setWriteLock u b =>
    cases ht
    have hrecord : RecordOk s.cfg u { s.unit u with wlk := b } := ⟨h.store u, h.absent u, h.tag u⟩
    exact (h.sound.setUnit hrecord rfl rfl).invariant_recompute
  | ready =>
    cases ht
    exact h.congr rfl
  | poke a v =>
    obtain ⟨ha, rfl⟩ := pokeMemory_next ht
    exact h.of_sound
      ⟨h.cfg, ⟨writeWord_wf h.mem.1, writeWord_below h.mem.2 ha⟩, h.sound.records, h.media, ⟨h.busy, h.owner⟩⟩ rfl rfl rfl
  | storageFault b =>
    cases ht
    exact h.congr rfl

/-! ### Every step -/

/-- Settles O50: each case of `step_cases` is a call or a completion that keeps the invariant, up to the host's list and the
counter of draws. -/
theorem invariantIsKeptByEveryStep : Obligations.InvariantIsKeptByEveryStep := by
  unfold Obligations.InvariantIsKeptByEveryStep
  intro s t h hstep
  rcases step_cases hstep with ⟨rfl, -, -⟩ | ⟨u, calls, n, hdue, hrun⟩ | ⟨call, rest, -, -, hother, hrun⟩ |
    ⟨u, rest, -, -, rfl⟩
  · exact h
  · exact invariant_completion (h.congr (t := { s with host := calls, draws := n }) rfl) hdue hrun
  · exact invariant_hostCall (h.congr (t := { s with host := rest }) rfl) hother hrun
  · exact h.congr rfl

end Sys2Proof.Machine

/-! What may change a unit's cylinder, the attention bits and the read/write field of status A (10_state.md R23, R26, R35).
Each rule asks what the load phases, the completions and the host's other calls do to its field. -/

namespace Sys2Proof.Machine

/-! ### What a data function keeps -/

/-- A data function changes of a unit's record the store at most (R175 to R188). -/
theorem dataFunction_unit (m : Move) (u v : UnitNo) (s : State) :
    ∃ store, (dataFunction m u s).unit v = { s.unit v with store := store } := by
  have htransferred : ∃ store, (transferred m u s).unit v = { s.unit v with store := store } := by
    by_cases hv : v = u
    · subst hv
      exact ⟨_, transferred_unit m v s⟩
    · exact ⟨_, transferred_others m u s v hv⟩
  rcases dataFunction_cases m u s with ⟨-, e⟩ | ⟨-, -, -, -, e⟩ | ⟨-, -, e⟩ | ⟨-, -, -, e⟩ <;> rw [e]
  · exact ⟨_, recompute_unit DON SUFU _ v⟩
  · exact ⟨_, recompute_unit (DON ||| WLE) 0 _ v⟩
  · exact ⟨_, recompute_unit DON SUFU _ v⟩
  · rw [transfer_eq]
    split
    · rwa [raise_unit, recompute_unit]
    · rwa [recompute_unit]

/-! ### The read/write field and the attention bits together -/

/-- The read/write field of status A and the attention bits of status B are as before (R22, R25). -/
structure SameFields (s t : State) : Prop where
  field : ∀ i, 9 ≤ i → t.sta.getLsbD i = s.sta.getLsbD i
  attention : ∀ i, 10 ≤ i → t.stb.getLsbD i = s.stb.getLsbD i

theorem SameFields.of_eq {s t : State} (ha : t.sta = s.sta) (hb : t.stb = s.stb) : SameFields s t :=
  ⟨fun _ _ => by rw [ha], fun _ _ => by rw [hb]⟩

theorem getLsbD_recompute_sta_high {pa pb : Word} (hp : PendingOk pa pb) (s : State) {i : Nat} (hi : 9 ≤ i) :
    (recompute pa pb s).sta.getLsbD i = s.sta.getLsbD i := by
  rw [getLsbD_recompute_sta_kept pa pb s (by omega) (by omega) (by omega), hp.sta_false (by omega) (by omega),
    Bool.or_false]

theorem getLsbD_recompute_stb_high (pa pb : Word) (s : State) {i : Nat} (hi : 10 ≤ i) :
    (recompute pa pb s).stb.getLsbD i = (s.stb.getLsbD i || pb.getLsbD i) :=
  getLsbD_recompute_stb_kept pa pb s (by omega) (by omega) (by omega)

/-- A recompute without pending attention keeps both. -/
theorem SameFields.after_recompute {pa pb : Word} {s t : State} (h : SameFields s t) (hp : PendingOk pa pb)
    (hpb : ∀ i, 10 ≤ i → pb.getLsbD i = false) : SameFields s (recompute pa pb t) where
  field i hi := (getLsbD_recompute_sta_high hp t hi).trans (h.field i hi)
  attention i hi := by rw [getLsbD_recompute_stb_high pa pb t hi, hpb i hi, Bool.or_false, h.attention i hi]

theorem SameFields.after_recompute_zero {s t : State} (h : SameFields s t) : SameFields s (recompute 0 0 t) :=
  h.after_recompute pendingOk_zero (by simp)

/-- A bit outside the mask survives clearing the mask. -/
theorem getLsbD_and_not_of_clear (w : Word) {m : Word} {i : Nat} (h : m.getLsbD i = false) :
    (w &&& ~~~m).getLsbD i = w.getLsbD i := by
  rw [BitVec.getLsbD_and, BitVec.getLsbD_not, h]
  rcases Nat.lt_or_ge i 18 with hi | hi
  · simp [hi]
  · simp [BitVec.getLsbD_of_ge w i hi]

/-- A bit outside the mask survives setting the mask. -/
theorem getLsbD_or_of_clear (w : Word) {m : Word} {i : Nat} (h : m.getLsbD i = false) :
    (w ||| m).getLsbD i = w.getLsbD i := by
  rw [BitVec.getLsbD_or, h, Bool.or_false]

/-- The geometry flags are bits 5 to 7 (R65). -/
theorem getLsbD_badGeometry_high (x : Word) {i : Nat} (hi : 9 ≤ i) : (badGeometry x).getLsbD i = false := by
  simp [getLsbD_badGeometry, show i ≠ 5 by omega, show i ≠ 6 by omega, show i ≠ 7 by omega]

theorem sameFields_dataFunction (m : Move) (u : UnitNo) (s : State) : SameFields s (dataFunction m u s) := by
  have hsufu : ∀ i, 10 ≤ i → SUFU.getLsbD i = false := by simp; omega
  have hbusy : SameFields s { s with busy := false } := .of_eq rfl rfl
  rcases dataFunction_cases m u s with ⟨-, e⟩ | ⟨-, -, -, -, e⟩ | ⟨-, -, e⟩ | ⟨-, -, -, e⟩ <;> rw [e]
  · obtain ⟨hfield, hattention⟩ := hbusy.after_recompute pendingOk_done_unsafe hsufu
    exact ⟨hfield, hattention⟩
  · exact hbusy.after_recompute pendingOk_done_locked (by simp)
  · have hbad : SameFields s { s.orSta (badGeometry s.da) with busy := false } :=
      ⟨fun i hi => getLsbD_or_of_clear s.sta (getLsbD_badGeometry_high s.da hi), fun _ _ => rfl⟩
    exact hbad.after_recompute pendingOk_done_unsafe hsufu
  · have hmoved : SameFields s (transferred m u s) := by
      refine ⟨fun i _ => by rw [transferred_sta], fun i hi => ?_⟩
      rw [transferred_stb m u s i (by omega)]
      simp [show i ≠ 7 by omega]
    obtain ⟨hfield, hattention⟩ := hmoved.after_recompute pendingOk_done (by simp)
    rw [transfer_eq]
    split <;> exact ⟨hfield, hattention⟩

/-! ### Cylinders -/

theorem goCheck_cyl (s : State) (u : UnitNo) : ((goCheck s).unit u).cyl = (s.unit u).cyl := by
  rcases goCheck_cases s with ⟨-, -, h⟩ | ⟨-, h⟩ <;> rw [h]
  rw [startUnit_unit]
  split
  · rename_i hu
    subst hu
    rfl
  · rfl

theorem LoadResult.cyl {c : BitVec 7} {v : Word} {s x : State} (h : LoadResult c v s x) (u : UnitNo) :
    (x.unit u).cyl = (s.unit u).cyl := by
  cases h with
  | statusA _ _ _ n _ => exact goCheck_cyl { s with sta := n } u
  | _ => rfl

theorem command_cyl {c : BitVec 7} {v : Word} {s t : State} (h : exec (decodeCommand c v) s = .next t) (u : UnitNo) :
    (t.unit u).cyl = (s.unit u).cyl := by
  rcases command_cases h with ⟨w, k, x, rfl, hx⟩ | ⟨-, -, rfl⟩
  · rw [endCommand_unit]
    exact hx.cyl u
  · rfl

/-- A record that is replaced by one with the same cylinder. -/
theorem setUnit_cyl {s : State} {u : UnitNo} {d : Drive} (h : d.cyl = (s.unit u).cyl) (v : UnitNo) :
    ((s.setUnit u d).unit v).cyl = (s.unit v).cyl := by
  rw [unit_setUnit]
  split
  · rename_i hv
    exact hv ▸ h
  · rfl

/-- A completion moves a cylinder only as the first phase of that unit's seek or recalibrate (R172). -/
theorem completion_cyl {f : Func} {u v : UnitNo} {s t : State} (h : completion f u s = .next t)
    (hv : (t.unit v).cyl ≠ (s.unit v).cyl) :
    v = u ∧ (s.unit u).func.second = false ∧ (f = .seek ∨ f = .recal) := by
  rcases completion_cases h with ⟨-, -, rfl⟩ | ⟨-, -, rfl⟩ | ⟨hp, c, hf, rfl⟩ | ⟨-, -, rfl⟩ | ⟨-, -, rfl⟩
  · exact absurd rfl hv
  · obtain ⟨store, hunit⟩ := dataFunction_unit (moveOf s f) u v s
    exact absurd (by rw [hunit]) hv
  · refine ⟨?_, hp, hf.imp And.left And.left⟩
    by_contra hne
    refine hv ?_
    rw [seekPhase1, recompute_unit, unit_setUnit_other _ _ (Ne.symm hne)]
    rfl
  · exact absurd (by rw [seekPhase2, recompute_unit]) hv
  · exact absurd rfl hv

/-- Of the other calls only a reset moves a cylinder (R260). -/
theorem hostCall_cyl {call : HostCall} {s t : State} (hc : ∀ u, call ≠ .eventFired u) (h : hostCall call s = .next t)
    (hr : call ≠ .reset) (u : UnitNo) : (t.unit u).cyl = (s.unit u).cyl := by
  cases call with
  | command c v => exact command_cyl h u
  | eventFired u => exact absurd rfl (hc u)
  | tick =>
    cases h
    rw [advanceTick_unit]
  | reset => exact absurd rfl hr
  | attach v i =>
    rcases attachUnit_next h with rfl | ⟨-, -, rfl⟩
    · rfl
    · rw [answer_unit, recompute_unit]
      exact setUnit_cyl (by rfl) u
  | detach v =>
    cases h
    rw [detachUnit, answer_unit, recompute_unit]
    exact setUnit_cyl (by rfl) u
  | setWriteLock v b =>
    cases h
    rw [setWriteLock, recompute_unit]
    exact setUnit_cyl (by rfl) u
  | ready =>
    cases h
    rfl
  | poke a v =>
    obtain ⟨-, rfl⟩ := pokeMemory_next h
    rfl
  | storageFault b =>
    cases h
    rfl

/-- Settles O51: of the cases of `step_cases` only a reset and a due first-phase completion move a cylinder. -/
theorem cylinderChangesOnlyBySeekOrReset : Obligations.CylinderChangesOnlyBySeekOrReset := by
  unfold Obligations.CylinderChangesOnlyBySeekOrReset
  intro s t u hstep hne
  rcases step_cases hstep with ⟨rfl, -, -⟩ | ⟨v, calls, n, hdue, hrun⟩ | ⟨call, rest, hhost, -, hother, hrun⟩ |
    ⟨v, rest, -, -, rfl⟩
  · exact absurd rfl hne
  · have hsame : (({ s with host := calls, draws := n }.unschedule v).unit u).cyl = (s.unit u).cyl :=
      setUnit_cyl (s := { s with host := calls, draws := n }) (by rfl) u
    obtain ⟨rfl, hp, hf⟩ := completion_cyl hrun (hsame ▸ hne)
    rw [unschedule_unit_self] at hp
    exact .inr ⟨hdue, hp, hf⟩
  · by_cases hr : call = .reset
    · exact .inl ⟨rest, hr ▸ hhost⟩
    · exact absurd (hostCall_cyl hother hrun hr u) hne
  · exact absurd rfl hne

/-! ### The read/write field -/

/-- A load phase changes the read/write field only as a performed load of group 2 (R23, R160). -/
theorem LoadResult.readWriteField {c : BitVec 7} {v : Word} {s x : State} (h : LoadResult c v s x) {i : Nat} (hi : 9 ≤ i) :
    x.sta.getLsbD i = s.sta.getLsbD i ∨ s.busy = false ∧ c.getLsbD 6 = true ∧ c.getLsbD 2 = true := by
  cases h with
  | none => exact .inl rfl
  | rejected => exact .inl rfl
  | diskAddress =>
    refine .inl ?_
    show ((s.sta &&& ~~~(NXC ||| NXF ||| NXS)) ||| badGeometry v).getLsbD i = _
    rw [getLsbD_or_of_clear _ (getLsbD_badGeometry_high v hi)]
    exact getLsbD_and_not_of_clear s.sta (by simp; omega)
  | clearFlags =>
    exact .inl (getLsbD_and_not_of_clear s.sta (by simp; omega))
  | memoryAddress => exact .inl rfl
  | wordCount => exact .inl rfl
  | statusA hb hg hl => exact .inr ⟨hb, hg, hl⟩

/-- No completion changes the read/write field (R23). -/
theorem completion_readWriteField {f : Func} {u : UnitNo} {s t : State} (h : completion f u s = .next t) {i : Nat}
    (hi : 9 ≤ i) : t.sta.getLsbD i = s.sta.getLsbD i := by
  rcases completion_cases h with ⟨-, -, rfl⟩ | ⟨-, -, rfl⟩ | ⟨-, c, -, rfl⟩ | ⟨-, -, rfl⟩ | ⟨-, -, rfl⟩
  · rfl
  · exact (sameFields_dataFunction (moveOf s f) u s).field i hi
  · exact getLsbD_recompute_sta_high pendingOk_zero _ hi
  · exact getLsbD_recompute_sta_high (pendingOk_attention u) s hi
  · rfl

/-- A call other than a command, a completion and a reset keeps both: it ends in a recompute at most. -/
theorem sameFields_hostCall {call : HostCall} {s t : State} (hc : ∀ u, call ≠ .eventFired u)
    (h : hostCall call s = .next t) (hr : call ≠ .reset) (hcmd : ∀ c v, call ≠ .command c v) : SameFields s t := by
  cases call with
  | command c v => exact absurd rfl (hcmd c v)
  | eventFired u => exact absurd rfl (hc u)
  | reset => exact absurd rfl hr
  | attach u i =>
    rcases attachUnit_next h with rfl | ⟨-, -, rfl⟩
    · exact .of_eq rfl rfl
    · have hset : SameFields s (s.setUnit u { s.unit u with store := Image.store i, attached := true }) := .of_eq rfl rfl
      obtain ⟨hfield, hattention⟩ := hset.after_recompute_zero
      exact ⟨hfield, hattention⟩
  | detach u =>
    cases h
    have hset : SameFields s (s.setUnit u { s.unit u with attached := false }) := .of_eq rfl rfl
    obtain ⟨hfield, hattention⟩ := hset.after_recompute_zero
    exact ⟨hfield, hattention⟩
  | setWriteLock u b =>
    cases h
    have hset : SameFields s (s.setUnit u { s.unit u with wlk := b }) := .of_eq rfl rfl
    exact hset.after_recompute_zero
  | poke a v =>
    obtain ⟨-, rfl⟩ := pokeMemory_next h
    exact .of_eq rfl rfl
  | tick | ready | storageFault _ =>
    cases h
    exact .of_eq rfl rfl

/-- Settles O54: of the cases of `step_cases` only a reset and a performed load of group 2 change the read/write field. -/
theorem readWriteFieldChangesOnlyByLoads : Obligations.ReadWriteFieldChangesOnlyByLoads := by
  unfold Obligations.ReadWriteFieldChangesOnlyByLoads
  intro s t i hstep hi hne
  rcases step_cases hstep with ⟨rfl, -, -⟩ | ⟨u, calls, n, -, hrun⟩ | ⟨call, rest, hhost, hwait, hother, hrun⟩ |
    ⟨u, rest, -, -, rfl⟩
  · exact absurd rfl hne
  · exact absurd (completion_readWriteField hrun hi) hne
  · by_cases hr : call = .reset
    · exact .inl ⟨rest, hr ▸ hhost⟩
    by_cases hcmd : ∃ c v, call = .command c v
    · obtain ⟨c, v, rfl⟩ := hcmd
      rcases command_cases hrun with ⟨w, k, x, rfl, hx⟩ | ⟨-, -, rfl⟩
      · rcases hx.readWriteField hi with hsame | ⟨hb, hg, hl⟩
        · exact absurd ((getLsbD_recompute_sta_high pendingOk_zero x hi).trans hsame) hne
        · exact .inr ⟨hwait rfl, hb, c, v, rest, hhost, hg, hl⟩
      · exact absurd rfl hne
    · exact absurd ((sameFields_hostCall hother hrun hr fun c v he => hcmd ⟨c, v, he⟩).field i hi) hne
  · exact absurd rfl hne

/-! ### Attention -/

/-- The go of unit `u` in state `s` has led to `t`: the controller was not busy and the unit had no pending event (R165). -/
structure GoOf (u : UnitNo) (s t : State) : Prop where
  wasIdle : s.busy = false
  wasFree : (s.unit u).ev = none
  busy : t.busy = true
  selected : t.sel = u
  started : (t.unit u).ev ≠ none
  attention : t.stb.getLsbD (17 - u.val) = false

/-- The go of a status-A load (R165). -/
theorem goOf_startUnit {s : State} (hb : s.busy = false) (hp : s.pending s.sel = false) :
    GoOf s.sel s (startUnit s.sel (funcField s.sta) s) where
  wasIdle := hb
  wasFree := by simpa [State.pending] using hp
  busy := startUnit_busy _ _ _
  selected := unitField_congr fun i hi _ => by
    rw [getLsbD_startUnit_sta]
    simp [show ¬(i = 1 ∨ i = 4 ∨ i = 8) by omega, show i ≠ 9 by omega]
  started := by simp
  attention := by
    rw [getLsbD_startUnit_stb]
    simp

/-- The end of the command keeps it. -/
theorem GoOf.endCommand {u : UnitNo} {s t : State} (h : GoOf u s t) (w : Word) (k : Bool) :
    GoOf u s (endCommand w k t) where
  wasIdle := h.wasIdle
  wasFree := h.wasFree
  busy := by simpa using h.busy
  selected := (sel_recompute 0 0 t (by simp)).trans h.selected
  started := by simpa using h.started
  attention := by
    rw [endCommand_stb, getLsbD_recompute_stb_high 0 0 t (by omega), h.attention]
    simp

/-- A load phase changes attention only as a go, that of the started unit (R26, R165). -/
theorem LoadResult.attention {c : BitVec 7} {v : Word} {s x : State} (h : LoadResult c v s x) {i : Nat} (hi : 10 ≤ i) :
    x.stb.getLsbD i = s.stb.getLsbD i ∨ ∃ u : UnitNo, i = 17 - u.val ∧ GoOf u s x := by
  cases h with
  | none => exact .inl rfl
  | rejected => exact .inl (getLsbD_or_of_clear s.stb (by simp; omega))
  | diskAddress => exact .inl rfl
  | clearFlags =>
    exact .inl (getLsbD_and_not_of_clear s.stb (by simp; omega))
  | memoryAddress => exact .inl rfl
  | wordCount => exact .inl rfl
  | statusA hb _ _ n _ =>
    rcases goCheck_cases { s with sta := n } with ⟨-, hp, hgo⟩ | ⟨-, hgo⟩ <;> rw [hgo]
    · by_cases hu : i = 17 - (State.sel { s with sta := n }).val
      · have hstart := goOf_startUnit (s := { s with sta := n }) hb hp
        exact .inr ⟨_, hu, hstart.wasIdle, hstart.wasFree, hstart.busy, hstart.selected, hstart.started, hstart.attention⟩
      · refine .inl ?_
        rw [getLsbD_startUnit_stb, decide_eq_false hu, decide_eq_false (by omega)]
        simp
    · exact .inl rfl

/-- A completion changes attention only as the settling of that unit (R26, R174). -/
theorem completion_attention {f : Func} {u : UnitNo} {s t : State} (h : completion f u s = .next t) {i : Nat}
    (hi : 10 ≤ i) :
    t.stb.getLsbD i = s.stb.getLsbD i ∨
      i = 17 - u.val ∧ (s.unit u).func.second = true ∧ f = .seek ∧ t.stb.getLsbD i = true := by
  rcases completion_cases h with ⟨-, -, rfl⟩ | ⟨-, -, rfl⟩ | ⟨-, c, -, rfl⟩ | ⟨hp, hf, rfl⟩ | ⟨-, -, rfl⟩
  · exact .inl rfl
  · exact .inl ((sameFields_dataFunction (moveOf s f) u s).attention i hi)
  · refine .inl ?_
    rw [seekPhase1, getLsbD_recompute_stb_high _ _ _ hi]
    simp
  · rw [seekPhase2, getLsbD_recompute_stb_high _ _ _ hi, getLsbD_ATTN]
    by_cases hu : i = 17 - u.val
    · exact .inr ⟨hu, hp, hf, by simp [hu]⟩
    · exact .inl (by simp [hu])
  · exact .inl rfl

/-- What a step can do to an attention bit: keep it, clear it by a reset, set it as the settling of its unit, or clear it as
the go of its unit (R26). -/
theorem step_attention {s t : State} (h : step s = .next t) {i : Nat} (hi : 10 ≤ i) :
    t.stb.getLsbD i = s.stb.getLsbD i ∨
      ((∃ rest, s.host = .reset :: rest) ∧ t.stb.getLsbD i = false) ∨
      (∃ u : UnitNo, i = 17 - u.val ∧ (s.unit u).ev = some 0 ∧ (s.unit u).func = ⟨.seek, true⟩ ∧
        t.stb.getLsbD i = true) ∨
      ∃ u : UnitNo, i = 17 - u.val ∧ s.nothingDue ∧ (∃ c v rest, s.host = .command c v :: rest) ∧ GoOf u s t := by
  rcases step_cases h with ⟨rfl, -, -⟩ | ⟨u, calls, n, hdue, hrun⟩ | ⟨call, rest, hhost, hwait, hother, hrun⟩ |
    ⟨u, rest, -, -, rfl⟩
  · exact .inl rfl
  · rcases completion_attention hrun hi with hsame | ⟨hu, hp, hf, hset⟩
    · exact .inl hsame
    · rw [unschedule_unit_self] at hp
      have hsecond : (s.unit u).func.second = true := hp
      exact .inr (.inr (.inl ⟨u, hu, hdue, by rw [← hf, ← hsecond], hset⟩))
  · by_cases hr : call = .reset
    · subst hr
      cases hrun
      refine .inr (.inl ⟨⟨rest, hhost⟩, ?_⟩)
      rw [resetController, getLsbD_recompute_stb_high _ _ _ hi]
      simp
    by_cases hcmd : ∃ c v, call = .command c v
    · obtain ⟨c, v, rfl⟩ := hcmd
      rcases command_cases hrun with ⟨w, k, x, rfl, hx⟩ | ⟨-, -, rfl⟩
      · rcases hx.attention hi with hsame | ⟨u, hu, hgo⟩
        · refine .inl ?_
          rw [endCommand_stb, getLsbD_recompute_stb_high 0 0 x hi, hsame]
          simp
        · obtain ⟨h1, h2, h3, h4, h5, h6⟩ := hgo.endCommand w k
          exact .inr (.inr (.inr ⟨u, hu, hwait rfl, ⟨c, v, rest, hhost⟩, h1, h2, h3, h4, h5, h6⟩))
      · exact .inl rfl
    · exact .inl ((sameFields_hostCall hother hrun hr fun c v he => hcmd ⟨c, v, he⟩).attention i hi)
  · exact .inl rfl

/-- The attention bit names its unit (R25). -/
theorem attention_unit {u v : UnitNo} (h : 17 - u.val = 17 - v.val) : v = u := by
  have hu := u.isLt
  have hv := v.isLt
  exact Fin.ext (by omega)

/-- Settles O52: of the cases of `step_attention` only the settling of the bit's unit sets it. -/
theorem attentionIsRaisedOnlyBySettling : Obligations.AttentionIsRaisedOnlyBySettling := by
  unfold Obligations.AttentionIsRaisedOnlyBySettling
  intro s t u hstep hs ht
  rcases step_attention hstep (i := 17 - u.val) (by omega) with hsame | ⟨-, hclear⟩ | ⟨v, hv, hdue, htag, -⟩ |
    ⟨v, hv, -, -, hgo⟩
  · exact absurd (hsame.symm.trans ht) (by simp [hs])
  · exact absurd (hclear.symm.trans ht) (by simp)
  · exact attention_unit hv ▸ ⟨hdue, htag⟩
  · exact absurd (hgo.attention.symm.trans (hv ▸ ht)) (by simp)

/-- Settles O53: of the cases of `step_attention` only a reset and the go of the bit's unit clear it. -/
theorem attentionIsClearedOnlyByGoOrReset : Obligations.AttentionIsClearedOnlyByGoOrReset := by
  unfold Obligations.AttentionIsClearedOnlyByGoOrReset
  intro s t u hstep hs ht
  rcases step_attention hstep (i := 17 - u.val) (by omega) with hsame | ⟨hreset, -⟩ | ⟨v, -, -, -, hset⟩ |
    ⟨v, hv, hnone, hhost, hgo⟩
  · exact absurd (hsame.symm.trans ht) (by simp [hs])
  · exact .inl hreset
  · exact absurd (hset.symm.trans ht) (by simp)
  · obtain rfl := attention_unit hv
    exact .inr ⟨hnone, hhost, hgo.wasIdle, hgo.wasFree, hgo.busy, hgo.selected, hgo.started⟩

end Sys2Proof.Machine

/-! The disk-geometry codec's round trips and the host's own memory write (20_memory.md R61, R69). -/

namespace Sys2Proof.Machine

/-! ### The round trips of the geometry codec -/

/-- The components in range come back from their store offset (R69). -/
theorem fromLinear_toLinear {d : DiskAddr} (hc : d.cyl < 203) (hf : d.surf < 20) (hs : d.sect < 10) :
    fromLinear (toLinear d) = d := by
  obtain ⟨c, f, n⟩ := d
  simp only [fromLinear, toLinear, WORDS_PER_SECTOR, SURFACES, SECTORS, CYLINDERS, DiskAddr.mk.injEq] at hc hf hs ⊢
  omega

/-- Packing the components of a word gives it back, but for bit 4, which no component holds (R63, R68). -/
theorem encodeDA_decodeDA {x : Word} (h : bit x 4 = false) : encodeDA (decodeDA x) = x := by
  have hsect : (decodeDA x).sect < 32 := (BitVec.isLt _).trans (by decide)
  have hsurf : (decodeDA x).surf < 32 := BitVec.isLt _
  have hclear : x.toNat / 16 % 2 = 0 := by simpa [bit, BitVec.getLsbD, Nat.testBit_eq_decide_div_mod_eq] using h
  have hx := x.isLt
  rw [encodeDA_eq hsect hsurf]
  apply BitVec.eq_of_toNat_eq
  simp only [decodeDA, CYL, SURF, SECT, BitVec.extractLsb'_toNat, BitVec.toNat_ofNat, Nat.shiftRight_eq_div_pow]
  omega

/-- The linear position of the sector that an offset rounds up to, where R67's clamp does not apply. -/
theorem toLinear_fromLinear {w : Nat} (h : (w + 255) / 256 < 40600) :
    toLinear (fromLinear w) = (w + 255) / 256 * 256 := by
  simp only [toLinear, fromLinear, WORDS_PER_SECTOR, SURFACES, SECTORS, CYLINDERS]
  omega

/-- Settles O49: packing undoes unpacking and `fromLinear` undoes `toLinear`; the other way an offset rounds up to its
sector. -/
theorem geometryRoundTrips : Obligations.GeometryRoundTrips := by
  unfold Obligations.GeometryRoundTrips
  refine ⟨fun x hx h4 => ?_, fun k hk => ?_, fun w _ hw hlast => ?_⟩
  · obtain ⟨hsect, hsurf, hcyl⟩ := hx
    rw [fromLinear_toLinear (d := decodeDA x) hcyl hsurf hsect, encodeDA_decodeDA h4]
  · have hsector : (256 * k + 255) / 256 = k := by omega
    rw [toLinear_fromLinear (by omega), hsector, Nat.mul_comm]
  · have hsector : (w + 255) / 256 = w / 256 + 1 := by omega
    rw [toLinear_fromLinear (by omega), hsector]

/-! ### The host's own memory write -/

section
variable (s : State) {a : Nat} (v : Word)

theorem pokeMemory_of_lt (h : a < s.cfg.memSize) : pokeMemory a v s = .next { s with mem := writeWord s.mem a v } :=
  if_pos h

theorem pokeMemory_of_le (h : s.cfg.memSize ≤ a) : pokeMemory a v s = .fault .noSuchMemory := if_neg (Nat.not_lt.2 h)
end

/-- Settles O45: the call does not wait for a due event, so its write is the step. -/
theorem hostMemoryWrite : Obligations.HostMemoryWrite := by
  unfold Obligations.HostMemoryWrite
  intro s a v rest hhost hwf
  have hstep : step s = pokeMemory a v { s with host := rest } := step_call hhost (fun hw => nomatch hw)
  constructor
  · intro ha
    exact ⟨_, hstep.trans (pokeMemory_of_lt { s with host := rest } v ha), rfl, fun b => readWord_writeWord hwf a b v⟩
  · intro ha
    exact hstep.trans (pokeMemory_of_le { s with host := rest } v ha)

end Sys2Proof.Machine

/-! The decoder and the encoder undo each other, and a command's meaning is that of its code (30_encoding.md R91 to R99). -/

namespace Sys2Proof

open Machine

/-! ### The byte image -/

/-- A bit vector whose high bits are zero is its low bits, padded. -/
theorem setWidth_low_bits {m n : Nat} {b : BitVec (m + n)} (h : b.extractLsb' n m = 0#m) :
    (b.extractLsb' 0 n).setWidth (m + n) = b := by
  have hsplit := BitVec.extractLsb'_append_extractLsb' (x := b)
  rw [h] at hsplit
  conv_rhs => rw [← hsplit]
  simp [BitVec.setWidth_eq_append]

theorem extractLsb'_one {n : Nat} (w : BitVec n) (i : Nat) : w.extractLsb' i 1 = BitVec.ofBool (w.getLsbD i) := by
  apply BitVec.eq_of_getLsbD_eq
  intro j hj
  obtain rfl : j = 0 := by omega
  simp

/-- Three bytes with zero padding are the image of the word they hold. -/
theorem wordBytes_of_padding {v0 v1 v2 : Byte} (h : v2.extractLsb' 2 6 = 0#6) :
    wordBytes (v2.extractLsb' 0 2 ++ v1 ++ v0) = [v0, v1, v2] := by
  have h0 : (v2.extractLsb' 0 2 ++ v1 ++ v0).extractLsb' 0 8 = v0 := BitVec.extractLsb'_append_eq_right
  have h1 : (v2.extractLsb' 0 2 ++ v1 ++ v0).extractLsb' 8 8 = v1 := by
    rw [BitVec.extractLsb'_append_eq_of_le (le_refl 8)]
    exact BitVec.extractLsb'_append_eq_right
  have h2 : (v2.extractLsb' 0 2 ++ v1 ++ v0).extractLsb' 16 2 = v2.extractLsb' 0 2 := by
    rw [BitVec.extractLsb'_append_eq_of_le (by decide)]
    exact BitVec.extractLsb'_append_eq_left
  rw [wordBytes, h0, h1, h2, setWidth_low_bits h]

/-- The bytes that hold an encoded form are its image: no padding bit is dropped. -/
theorem Code.bytes_of_ofBytes {bytes : List Byte} {c : Code} (h : Code.ofBytes bytes = .ok c) : c.bytes = bytes := by
  unfold Code.ofBytes at h
  split at h
  · split at h
    · rename_i b v0 v1 v2 hpad
      cases h
      obtain ⟨htop, hpad⟩ := hpad
      have hb : b.extractLsb' 7 1 = 0#1 := by
        rw [extractLsb'_one, htop]
        rfl
      rw [Code.bytes, setWidth_low_bits hb, wordBytes_of_padding hpad]
    · cases h
  · split at h
    · rename_i hpad
      cases h
      exact wordBytes_of_padding hpad
    · cases h
  · cases h

theorem decode_eq_ok_iff {bytes : List Byte} {i : Instr} :
    decode bytes = .ok i ↔ ∃ c, Code.ofBytes bytes = .ok c ∧ decodeCode c = i := by
  unfold decode
  cases Code.ofBytes bytes <;> simp [Except.map]

theorem decode_encode (i : Instr) : decode (encode i) = .ok (decodeCode (encodeCode i)) :=
  decode_eq_ok_iff.2 ⟨_, Code.ofBytes_bytes _, rfl⟩

/-- Instructions with one byte image have one code. -/
theorem encodeCode_eq_of_encode_eq {i j : Instr} (h : encode i = encode j) : encodeCode i = encodeCode j := by
  have hc : Code.ofBytes (encode i) = Code.ofBytes (encode j) := congrArg _ h
  rw [encode, encode, Code.ofBytes_bytes, Code.ofBytes_bytes] at hc
  exact Except.ok.inj hc

/-! ### The fields of a command code -/

/-- A command code has the fields it was built from (R91). -/
theorem fields_commandCode (g : BitVec 1) (sub : BitVec 2) (x l r k : Bool) :
    (commandCode g sub x l r k).getLsbD 6 = g.getLsbD 0 ∧ (commandCode g sub x l r k).getLsbD 5 = sub.getLsbD 1 ∧
      (commandCode g sub x l r k).getLsbD 4 = sub.getLsbD 0 ∧ (commandCode g sub x l r k).extractLsb' 4 2 = sub ∧
      (commandCode g sub x l r k).getLsbD 3 = x ∧ (commandCode g sub x l r k).getLsbD 2 = l ∧
      (commandCode g sub x l r k).getLsbD 1 = r ∧ (commandCode g sub x l r k).getLsbD 0 = k := by
  revert g sub x l r k
  decide

/-- A command code is built from its own fields (R91). -/
theorem commandCode_fields (c : BitVec 7) :
    commandCode (BitVec.ofBool (c.getLsbD 6)) (BitVec.ofBool (c.getLsbD 5) ++ BitVec.ofBool (c.getLsbD 4))
      (c.getLsbD 3) (c.getLsbD 2) (c.getLsbD 1) (c.getLsbD 0) = c := by
  revert c
  decide

theorem subCode_eq (c : BitVec 7) : c.extractLsb' 4 2 = BitVec.ofBool (c.getLsbD 5) ++ BitVec.ofBool (c.getLsbD 4) := by
  revert c
  decide

/-! ### The row of the first phase -/

section
variable {k r l : Bool} {skipRow readRow loadRow noPulseRow : Instr}

/-- Each of the four rows encodes its own pulse and the later ones, so the row of the first phase encodes all (R94). -/
theorem encodeCode_firstPhaseRow {g : BitVec 1} {sub : BitVec 2} {x : Bool} {v : Word}
    (hskip : encodeCode skipRow = .command (commandCode g sub x l r true) v)
    (hread : encodeCode readRow = .command (commandCode g sub x l true false) v)
    (hload : encodeCode loadRow = .command (commandCode g sub x true false false) v)
    (hnone : encodeCode noPulseRow = .command (commandCode g sub x false false false) v) :
    encodeCode (firstPhaseRow k r l skipRow readRow loadRow noPulseRow) = .command (commandCode g sub x l r k) v := by
  cases k with
  | true => exact hskip
  | false =>
    cases r with
    | true => exact hread
    | false =>
      cases l with
      | true => exact hload
      | false => exact hnone

theorem wellFormed_firstPhaseRow (hskip : skipRow.WellFormed) (hread : readRow.WellFormed) (hload : loadRow.WellFormed)
    (hnone : noPulseRow.WellFormed) : (firstPhaseRow k r l skipRow readRow loadRow noPulseRow).WellFormed := by
  unfold firstPhaseRow
  split
  · exact hskip
  · split
    · exact hread
    · split
      · exact hload
      · exact hnone
end

/-! ### Encoding a decoded form -/

theorem wellFormed_decodeCommand (c : BitVec 7) (v : Word) : (decodeCommand c v).WellFormed := by
  unfold decodeCommand
  dsimp only
  split <;> exact wellFormed_firstPhaseRow rfl rfl rfl rfl

theorem encodeCode_decodeCommand (c : BitVec 7) (v : Word) : encodeCode (decodeCommand c v) = .command c v := by
  conv_rhs => rw [← commandCode_fields c]
  unfold decodeCommand
  dsimp only
  rw [subCode_eq]
  split <;> rename_i h6 h5 h4 <;> rw [h6, h5, h4] <;> exact encodeCode_firstPhaseRow rfl rfl rfl rfl

theorem Func.code_ofCode (c : BitVec 3) : (Func.ofCode c).code = c := by
  revert c
  decide

/-- A status-A word is built from its own fields (R22). -/
theorem functionWord_fields (w : Word) :
    functionWord (unitField w) (funcField w) (w.getLsbD 11) (w.getLsbD 10) (w.getLsbD 9) (w.extractLsb' 0 9) = w := by
  have hunit : BitVec.ofNat 3 (unitField w).val = w.extractLsb' 15 3 :=
    (BitVec.ofNat_toNat _ _).trans (BitVec.setWidth_eq _)
  have hfunc : (funcField w).code = w.extractLsb' 12 3 := Func.code_ofCode _
  have hjoin : ∀ hi n lo m, hi = lo + m → w.extractLsb' hi n ++ w.extractLsb' lo m = w.extractLsb' lo (n + m) :=
    fun _ _ _ _ h => BitVec.extractLsb'_append_extractLsb'_eq_extractLsb' h
  rw [functionWord, hunit, hfunc, ← extractLsb'_one, ← extractLsb'_one, ← extractLsb'_one, hjoin 15 3 12 3 rfl,
    hjoin 12 6 11 1 rfl, hjoin 11 7 10 1 rfl, hjoin 10 8 9 1 rfl, hjoin 9 9 0 9 rfl]
  exact BitVec.extractLsb'_eq_self

theorem wellFormed_decodeFunction (w : Word) : (decodeFunction w).WellFormed := by
  unfold decodeFunction
  dsimp only
  split <;> rfl

theorem encodeCode_decodeFunction (w : Word) : encodeCode (decodeFunction w) = .function w := by
  conv_rhs => rw [← functionWord_fields w]
  unfold decodeFunction
  dsimp only
  split <;> rename_i hf <;> rw [hf] <;> rfl

theorem wellFormed_decodeCode (c : Code) : (decodeCode c).WellFormed := by
  cases c with
  | command c v => exact wellFormed_decodeCommand c v
  | function w => exact wellFormed_decodeFunction w

theorem encodeCode_decodeCode (c : Code) : encodeCode (decodeCode c) = c := by
  cases c with
  | command c v => exact encodeCode_decodeCommand c v
  | function w => exact encodeCode_decodeFunction w

/-- Settles O8: the bytes hold an encoded form, whose row is well-formed and encodes it. -/
theorem encodeOfDecodeIsTheBytes : Obligations.EncodeOfDecodeIsTheBytes := by
  unfold Obligations.EncodeOfDecodeIsTheBytes
  intro bytes i h
  obtain ⟨c, hc, rfl⟩ := decode_eq_ok_iff.1 h
  refine ⟨wellFormed_decodeCode c, ?_⟩
  rw [encode, encodeCode_decodeCode]
  exact Code.bytes_of_ofBytes hc

/-! ### Decoding an encoded instruction -/

/-- A well-formed instruction is the row of its code: a skip row always, a read row without the skip pulse, a load row
without the skip and the read pulse (R94, R95), a function row by its fields (R99). -/
theorem decodeCode_encodeCode {i : Instr} (h : i.WellFormed) : decodeCode (encodeCode i) = i := by
  cases i with
  | skde x l r v | skat x l r v | skdn x l r v | sker x l r v | noSkip0 x l r v | skg2 x l r v | noSkip2 x l r v
  | noSkip3 x l r v =>
    simp only [encodeCode, decodeCode, decodeCommand, fields_commandCode]
    rfl
  | rdsa x l k v | rdsb x l k v | noRead2 x l k v | noRead3 x l k v | rdcy x l k v | rdda x l k v | rdma x l k v
  | rdwc x l k v =>
    obtain rfl : k = false := by simpa [Instr.WellFormed, Instr.wellFormed] using h
    simp only [encodeCode, decodeCode, decodeCommand, fields_commandCode]
    rfl
  | ldda x r k v | clrf x r k v | ldma x r k v | ldwc x r k v | lsa0 x r k v | lsac x r k v | lsao x r k v
  | lsar x r k v =>
    obtain ⟨rfl, rfl⟩ : r = false ∧ k = false := by simpa [Instr.WellFormed, Instr.wellFormed] using h
    simp only [encodeCode, decodeCode, decodeCommand, fields_commandCode]
    rfl
  | noPulse1 sub x v | noPulse2 sub x v =>
    simp only [encodeCode, decodeCode, decodeCommand, fields_commandCode]
    cases sub.getLsbD 1 <;> cases sub.getLsbD 0 <;> rfl
  | funcIdle u ied iea go flags => exact decodeFunction_functionWord u .idle ied iea go flags
  | funcRead u ied iea go flags => exact decodeFunction_functionWord u .read ied iea go flags
  | funcWrite u ied iea go flags => exact decodeFunction_functionWord u .write ied iea go flags
  | funcRecal u ied iea go flags => exact decodeFunction_functionWord u .recal ied iea go flags
  | funcSeek u ied iea go flags => exact decodeFunction_functionWord u .seek ied iea go flags
  | funcRdall u ied iea go flags => exact decodeFunction_functionWord u .rdall ied iea go flags
  | funcWrall u ied iea go flags => exact decodeFunction_functionWord u .wrall ied iea go flags
  | funcWrchk u ied iea go flags => exact decodeFunction_functionWord u .wrchk ied iea go flags

/-- Settles O7: the image reads back as the code, and the code as its well-formed row. -/
theorem decodeOfEncodeIsTheInstruction : Obligations.DecodeOfEncodeIsTheInstruction := by
  unfold Obligations.DecodeOfEncodeIsTheInstruction
  intro i h
  rw [decode_encode, decodeCode_encodeCode h]

/-- Settles O3, each word by evaluation. -/
theorem sampleWordsDecode : Obligations.SampleWordsDecode := by
  unfold Obligations.SampleWordsDecode
  exact ⟨rfl, rfl, rfl, rfl, rfl, rfl⟩

end Sys2Proof

/-! What an instruction does depends on its code alone, and on the code's group, sub-code and pulses (30_encoding.md R91 to
R97, R99). -/

namespace Sys2Proof.Machine

/-! ### One meaning for each code -/

theorem exec_decodeCommand_commandCode (g : BitVec 1) (sub : BitVec 2) (x l r k : Bool) (v : Word) (s : State) :
    exec (decodeCommand (commandCode g sub x l r k) v) s =
      commandMeaning (g.getLsbD 0) (sub.getLsbD 1) (sub.getLsbD 0) ⟨k, r, l⟩ v s := by
  simp only [exec_decodeCommand, pulsesOf, fields_commandCode]

/-- A command without a pulse only ends (R95). -/
theorem commandMeaning_noPulse (g s1 s0 : Bool) (v : Word) (s : State) :
    commandMeaning g s1 s0 ⟨false, false, false⟩ v s = .next (endCommand v false s) := by
  cases g <;> cases s1 <;> cases s0 <;> rfl

/-- Every instruction, well-formed or not, has the meaning of the row its code is read as (R94). -/
theorem exec_decodeCode_encodeCode (i : Instr) (s : State) : exec (decodeCode (encodeCode i)) s = exec i s := by
  cases i with
  | noPulse1 sub x v | noPulse2 sub x v =>
    exact (exec_decodeCommand_commandCode ..).trans (commandMeaning_noPulse ..)
  | funcIdle u ied iea go flags | funcRead u ied iea go flags | funcWrite u ied iea go flags
  | funcRecal u ied iea go flags | funcSeek u ied iea go flags | funcRdall u ied iea go flags
  | funcWrall u ied iea go flags | funcWrchk u ied iea go flags =>
    rw [decodeCode_encodeCode rfl]
  | _ => exact exec_decodeCommand_commandCode ..

/-- Settles O9: both terms have the meaning of their common code. -/
theorem equalWordsHaveEqualMeanings : Obligations.EqualWordsHaveEqualMeanings := by
  unfold Obligations.EqualWordsHaveEqualMeanings
  intro i j s h
  rw [← exec_decodeCode_encodeCode i, encodeCode_eq_of_encode_eq h, exec_decodeCode_encodeCode]

/-- Settles O10: no field that a command's meaning depends on holds bit 3. -/
theorem codeBit3IsIgnored : Obligations.CodeBit3IsIgnored := by
  unfold Obligations.CodeBit3IsIgnored
  intro c v s
  have hkept : ∀ i ∈ [0, 1, 2, 4, 5, 6], (c ^^^ 8#7).getLsbD i = c.getLsbD i := by
    revert c
    decide
  simp only [exec_decodeCommand, pulsesOf, hkept, List.mem_cons, true_or, or_true]

/-! ### Completion of commands -/

/-- The reserved load is refused as a whole (R97). -/
theorem exec_reserved {c : BitVec 7} {s : State} (hc : reservedCode c) (hs : s.cfg.g2S0Load = .refuse) (v : Word) :
    exec (decodeCommand c v) s = .next s.refuse := by
  obtain ⟨h6, h5, h4, h2⟩ := (reservedCode_iff c).1 hc
  rw [exec_decodeCommand, h6, h5, h4]
  exact if_pos ⟨h2, hs⟩

theorem group2Sub0_answers_next (p : Pulses) (v : Word) (s : State) : ∃ t, group2Sub0 p v s = .next t := by
  unfold group2Sub0
  split <;> exact ⟨_, rfl⟩

/-- No command stops the machine: the one with a condition is group 2, sub-code 0, and a refusal is a next state too. -/
theorem commandMeaning_answers_next (p : Pulses) (v : Word) (s : State) :
    ∀ g s1 s0, ∃ t, commandMeaning g s1 s0 p v s = .next t
  | false, false, false | false, false, true | false, true, false | false, true, true => ⟨_, rfl⟩
  | true, false, false => group2Sub0_answers_next p v s
  | true, false, true | true, true, false | true, true, true => ⟨_, rfl⟩

/-- Settles O21: the reserved load by `exec_reserved`; any other command keeps the refusal mark by `command_context`. -/
theorem onlyTheReservedCodeIsRefused : Obligations.OnlyTheReservedCodeIsRefused := by
  unfold Obligations.OnlyTheReservedCodeIsRefused
  intro c v s
  refine ⟨fun h => exec_reserved h.1 h.2 v, fun hn => ?_⟩
  obtain ⟨t, ht⟩ : ∃ t, exec (decodeCommand c v) s = .next t := by
    rw [exec_decodeCommand]
    exact commandMeaning_answers_next ..
  rcases command_context ht with ⟨-, -, -, hrefused⟩ | ⟨hc, hs, -⟩
  · exact ⟨t, ht, hrefused⟩
  · exact absurd ⟨hc, hs⟩ hn

/-- Settles O16: both rows are the end of a command, with its answer and its recompute. -/
theorem noPulseOnlyRecomputes : Obligations.NoPulseOnlyRecomputes := by
  unfold Obligations.NoPulseOnlyRecomputes
  intro sub x v s
  have hend := unchanged_endCommand v false s
  exact ⟨⟨_, rfl, endCommand_reply v false s, hend⟩, ⟨_, rfl, endCommand_reply v false s, hend⟩⟩

/-- Settles O4: the command finds nothing due, so its call is the step; a well-formed instruction with its code is the row
the code decodes to. -/
theorem stepRunsTheNextCommand : Obligations.StepRunsTheNextCommand := by
  unfold Obligations.StepRunsTheNextCommand
  intro s c v rest hhost hnone
  have hstep : step s = exec (decodeCommand c v) { s with host := rest } := step_call hhost fun _ => hnone
  refine ⟨hstep, fun i hi hcode => ?_⟩
  have hrow : decodeCommand c v = i := by
    rw [← decodeCode_encodeCode hi, hcode]
    rfl
  rw [hstep, hrow]

/-! ### Refused tags -/

theorem firstPhase_of_second {s : State} {u : UnitNo} (h : (s.unit u).func.second = true) (k : State → Result) :
    firstPhase u s k = .next s.refuse := if_pos h

/-- Every function but SEEK refuses a second phase (R99, R170). -/
theorem completion_of_second {f : Func} {u : UnitNo} {s : State} (hf : f ≠ .seek)
    (h : (s.unit u).func.second = true) : completion f u s = .next s.refuse := by
  cases f with
  | seek => exact absurd rfl hf
  | _ => rw [completion, firstPhase_of_second h]

/-- Settles O30: the event fires, and the completion finds the second phase of another function. -/
theorem secondPhaseOfOtherFunctionsIsRefused : Obligations.SecondPhaseOfOtherFunctionsIsRefused := by
  unfold Obligations.SecondPhaseOfOtherFunctionsIsRefused
  intro f u ied iea go flags s hdue hsecond hf
  have htag : ((s.unschedule u).unit u).func.second = true := by rw [unschedule_unit_self, hsecond]
  rw [exec_functionRow_eq, fireEvent_due hdue, completion_of_second hf htag]
  rfl

end Sys2Proof.Machine

/-! A recompute from any state, with any pending bits (40_status_model.md R110 to R119). -/

namespace Sys2Proof.Machine

/-! ### One recompute -/

/-- A recompute writes status A, status B and the interrupt level only (R110). -/
theorem recompute_frame (pa pb : Word) (s : State) :
    { recompute pa pb s with sta := s.sta, stb := s.stb, irq := s.irq } = s := by
  rw [recompute_eq]

/-- SUWP and SUSI are the selected unit's or pending (R113, R116). -/
theorem getLsbD_recompute_sta_dynamic (pa pb : Word) (s : State) {i : Nat} (hi : i = 2 ∨ i = 3) :
    (recompute pa pb s).sta.getLsbD i =
      (pa.getLsbD i || (dynamicA s (unitField (mergedA pa s))).getLsbD i) := by
  rw [getLsbD_recompute_sta, getLsbD_mergedA]
  rcases hi with rfl | rfl <;> simp [-BitVec.getLsbD_eq_getElem]

/-- SUFU, SUSU and SUNR are the selected unit's or pending (R114, R115). -/
theorem getLsbD_recompute_stb_dynamic (pa pb : Word) (s : State) {i : Nat} (hi : i = 0 ∨ i = 1 ∨ i = 9) :
    (recompute pa pb s).stb.getLsbD i =
      (pb.getLsbD i || (dynamicB s (unitField (mergedA pa s))).getLsbD i) := by
  rw [getLsbD_recompute_stb, getLsbD_mergedB, decide_eq_true hi]
  simp [-BitVec.getLsbD_eq_getElem]

/-- ERR is pending or the summary of the error flags that the recompute leaves (R117). -/
theorem getLsbD_recompute_err (pa pb : Word) (s : State) :
    (recompute pa pb s).sta.getLsbD 0 = (pa.getLsbD 0 ||
      (hasAny (recompute pa pb s).sta EFLAGS_A || hasAny (recompute pa pb s).stb EFLAGS_B)) := by
  cases hpending : pa.getLsbD 0 with
  | false => rw [← hasAny_ERR, hasAny_recompute_err pb s pa hpending, Bool.false_or]
  | true => rw [getLsbD_recompute_sta, getLsbD_mergedA, hpending, Bool.or_true, Bool.true_or, Bool.true_or, Bool.true_or]

theorem hasAny_iff_ne_zero (w m : Word) : hasAny w m = true ↔ w &&& m ≠ 0 := by
  simp [hasAny]

/-- The interrupt level, in the masks of R118. -/
theorem irqLevel_iff (a b : Word) :
    irqLevel a b = true ↔
      (a &&& (DON ||| ERR) ≠ 0 ∧ a.getLsbD 11 = true) ∨ (b &&& ATTN_ALL ≠ 0 ∧ a.getLsbD 10 = true) := by
  rw [irqLevel, hasAny_IED, hasAny_IEA, Bool.or_eq_true, Bool.and_eq_true, Bool.and_eq_true, hasAny_iff_ne_zero,
    hasAny_iff_ne_zero]

/-- Settles O46: the frame, the sticky bits, the dynamic bits of the selected unit, the summary and the interrupt level. -/
theorem recomputeDerivesTheStatus : Obligations.RecomputeDerivesTheStatus := by
  unfold Obligations.RecomputeDerivesTheStatus
  intro pa pb s u t hu ht
  have hsel : unitField (mergedA pa s) = u := hu.symm
  have hmasks : EFLAGS_A = 0o0000764#18 ∧ EFLAGS_B = 0o0001774#18 ∧ DON ||| ERR = 0o0000003#18 ∧
      ATTN_ALL = 0o0776000#18 := by decide
  obtain ⟨hflagsA, hflagsB, hdone, hattn⟩ := hmasks
  subst ht
  refine ⟨recompute_frame pa pb s, fun i hi => ?_, fun i hi => ?_, ?suwp, ?susi, ?sufu, ?susu, ?sunr, ?err, ?irq⟩
  · simp only [List.mem_cons, List.not_mem_nil, or_false, not_or] at hi
    obtain ⟨h0, h2, h3⟩ := hi
    exact getLsbD_recompute_sta_kept pa pb s h0 h2 h3
  · simp only [List.mem_cons, List.not_mem_nil, or_false, not_or] at hi
    obtain ⟨h0, h1, h9⟩ := hi
    exact getLsbD_recompute_stb_kept pa pb s h0 h1 h9
  case suwp =>
    rw [bit, getLsbD_recompute_sta_dynamic pa pb s (.inr rfl), getLsbD_dynamicA, hsel]
    simp
  case susi =>
    rw [bit, getLsbD_recompute_sta_dynamic pa pb s (.inl rfl), getLsbD_dynamicA, hsel, seeking_eq, CYLINDERS]
    simp
  case sufu =>
    rw [bit, getLsbD_recompute_stb_dynamic pa pb s (by simp), getLsbD_dynamicB, hsel]
    simp
  case susu =>
    rw [bit, getLsbD_recompute_stb_dynamic pa pb s (by simp), getLsbD_dynamicB, hsel, seeking_eq]
    simp
  case sunr =>
    rw [bit, getLsbD_recompute_stb_dynamic pa pb s (by simp), getLsbD_dynamicB, hsel, seeking_eq]
    simp
  case err =>
    rw [bit, getLsbD_recompute_err, Bool.or_eq_true, Bool.or_eq_true, hasAny_iff_ne_zero, hasAny_iff_ne_zero, hflagsA,
      hflagsB]
  case irq => rw [recompute_irq, irqLevel_iff, hdone, hattn]

/-! ### One recompute after another -/

/-- The mask of step 1 drops bits 0, 2 and 3 (R111). -/
theorem getLsbD_keepMaskA : ∀ i < 18, (~~~(DYN_A ||| ERR)).getLsbD i = !decide (i = 0 ∨ i = 2 ∨ i = 3) := by decide

/-- The mask of step 2 drops bits 0, 1 and 9 (R112). -/
theorem getLsbD_keepMaskB : ∀ i < 18, (~~~DYN_B).getLsbD i = !decide (i = 0 ∨ i = 1 ∨ i = 9) := by decide

/-- Step 1 after a recompute: that one's pending bits are old bits now, and only the sticky ones are kept (R111). -/
theorem mergedA_recompute (pa pb pa' : Word) (s : State) :
    mergedA pa' (recompute pa pb s) = mergedA ((pa &&& ~~~(DYN_A ||| ERR)) ||| pa') s := by
  apply BitVec.eq_of_getLsbD_eq
  intro i hi
  rw [getLsbD_mergedA, getLsbD_mergedA, BitVec.getLsbD_or, BitVec.getLsbD_and, getLsbD_keepMaskA i hi]
  by_cases hderived : i = 0 ∨ i = 2 ∨ i = 3
  · simp only [hderived, decide_true, Bool.not_true, Bool.and_false, Bool.false_or]
  · obtain ⟨h0, h2, h3⟩ : i ≠ 0 ∧ i ≠ 2 ∧ i ≠ 3 := by omega
    rw [getLsbD_recompute_sta_kept pa pb s h0 h2 h3]
    simp only [hderived, decide_false, Bool.not_false, Bool.and_true, Bool.or_assoc]

/-- Step 2 after a recompute (R112). -/
theorem mergedB_recompute (pa pb pb' : Word) (s : State) :
    mergedB pb' (recompute pa pb s) = mergedB ((pb &&& ~~~DYN_B) ||| pb') s := by
  apply BitVec.eq_of_getLsbD_eq
  intro i hi
  rw [getLsbD_mergedB, getLsbD_mergedB, BitVec.getLsbD_or, BitVec.getLsbD_and, getLsbD_keepMaskB i hi]
  by_cases hderived : i = 0 ∨ i = 1 ∨ i = 9
  · simp only [hderived, decide_true, Bool.not_true, Bool.and_false, Bool.false_or]
  · obtain ⟨h0, h1, h9⟩ : i ≠ 0 ∧ i ≠ 1 ∧ i ≠ 9 := by omega
    rw [getLsbD_recompute_stb_kept pa pb s h0 h1 h9]
    simp only [hderived, decide_false, Bool.not_false, Bool.and_true, Bool.or_assoc]

/-- Two recomputes are one, whose pending bits are the second's and the sticky ones of the first's: what the first derived,
the second derives again from the same units (R119). -/
theorem recompute_recompute (pa pb pa' pb' : Word) (s : State) :
    recompute pa' pb' (recompute pa pb s) =
      recompute ((pa &&& ~~~(DYN_A ||| ERR)) ||| pa') ((pb &&& ~~~DYN_B) ||| pb') s := by
  have hunits : (recompute pa pb s).units = s.units := recompute_units pa pb s
  rw [recompute_eq pa' pb', mergedA_recompute, mergedB_recompute, dynamicA_congr hunits, dynamicB_congr hunits,
    recompute_eq pa pb s, ← recompute_eq]

/-- Settles O47: without pending bits the one recompute that two amount to is the first again. -/
theorem recomputeIsIdempotent : Obligations.RecomputeIsIdempotent := by
  unfold Obligations.RecomputeIsIdempotent
  intro s
  have hnone : ∀ m : Word, (0 &&& m) ||| 0 = 0 := by simp
  rw [recompute_recompute, hnone, hnone]

/-- Settles O48: the second recompute keeps the sticky part of the masks, which dropping the other bits first leaves. -/
theorem pendingDynamicBitsAreTransient : Obligations.PendingDynamicBitsAreTransient := by
  unfold Obligations.PendingDynamicBitsAreTransient
  intro pa pb s
  have hdropped : DYN_A ||| ERR = 0o0000015#18 ∧ DYN_B = 0o0001003#18 := by decide
  obtain ⟨hA, hB⟩ := hdropped
  rw [recompute_recompute, recompute_recompute, hA, hB, BitVec.and_assoc, BitVec.and_assoc, BitVec.and_self,
    BitVec.and_self]

end Sys2Proof.Machine

/-! The group-1 commands: their skip tests, their reads and their loads, the busy gate of every load, and what sets DON
(41_group1_commands.md R130 to R143). -/

namespace Sys2Proof.Machine

/-! ### The three phases of a command -/

section
variable (p : Pulses) (test : State → Bool) (read : Word → State → Word) (load : Word → State → State) (v : Word)
  (s : State)

@[simp] theorem runPhases_reply :
    (runPhases p test read load v s).reply = .command (if p.read then read v s else v) (p.skip && test s) := rfl
end

section
variable {p : Pulses} {test : State → Bool} {read : Word → State → Word} {load : Word → State → State} {v : Word}
  {s : State}

/-- Without a load phase a command changes nothing but what its recompute derives (R143, R151). -/
theorem unchanged_runPhases (hl : p.load = false) : Unchanged s (runPhases p test read load v s) := by
  rw [runPhases, hl]
  exact unchanged_endCommand _ _ s

/-- While busy a load phase only sets PGE, whatever its load is (R131). -/
theorem rejected_runPhases (hl : p.load = true) (hb : s.busy = true) :
    Rejected s (runPhases p test read load v s) := by
  rw [runPhases, hl, if_pos rfl, busyGate, if_pos hb]
  exact rejected_endCommand _ _ s

/-- While not busy a load phase performs its load (R131). -/
theorem runPhases_load (hl : p.load = true) (hb : s.busy = false) :
    ∃ w q, runPhases p test read load v s = endCommand w q (load v s) := by
  refine ⟨if p.read then read v s else v, p.skip && test s, ?_⟩
  rw [runPhases, hl, if_pos rfl, busyGate, hb]
  rfl

variable {i : Instr}

/-- A command with a skip phase answers its test of the state before the command. -/
theorem answersSkip_of_runPhases {l r skip : Bool} (h : exec i s = .next (runPhases ⟨true, r, l⟩ test read load v s))
    (ht : test s = skip) : AnswersSkip i s v l r skip := by
  subst ht
  exact ⟨_, _, h, runPhases_reply .., fun hr => by simp [hr], fun hl => unchanged_runPhases hl⟩

/-- A command with a read phase returns what it reads in the state before the command. -/
theorem answersValue_of_runPhases {l k : Bool} {value : Word}
    (h : exec i s = .next (runPhases ⟨k, true, l⟩ test read load v s)) (hr : read v s = value) :
    AnswersValue i s l k value := by
  subst hr
  exact ⟨_, _, h, runPhases_reply .., fun hk => by simp [hk], fun hl => unchanged_runPhases hl⟩

/-- A command with a load phase is gated by busy (R131); when it is performed, its effect is that of the load and of the
command's end. -/
theorem gatedLoad_of_runPhases {r k : Bool} {effect : State → Prop}
    (h : exec i s = .next (runPhases ⟨k, r, true⟩ test read load v s))
    (he : s.busy = false → ∀ w q, effect (endCommand w q (load v s))) : GatedLoad i s v r k effect := by
  refine ⟨_, h, ⟨_, _, runPhases_reply .., fun hr => by simp [hr], fun hk => by simp [hk]⟩,
    fun hb => rejected_runPhases rfl hb, fun hb => ?_⟩
  obtain ⟨w, q, hend⟩ := runPhases_load (p := ⟨k, r, true⟩) (test := test) (read := read) (load := load) rfl hb
  exact hend ▸ he hb w q
end

/-! ### Skip tests and reads -/

theorem skdeTest_eq (s : State) : skdeTest s = (bit s.sta 1 || bit s.sta 0) := by
  rw [skdeTest, hasAny_DON, hasAny_ERR]

theorem skatTest_eq (s : State) : skatTest s = decide (s.stb &&& 0o776000#18 ≠ 0) := by
  rw [Bool.eq_iff_iff, decide_eq_true_iff]
  exact hasAny_iff_ne_zero s.stb ATTN_ALL

theorem skdnTest_eq (s : State) : skdnTest s = bit s.sta 1 := hasAny_DON s.sta

theorem skerTest_eq (s : State) : skerTest s = bit s.sta 0 := hasAny_ERR s.sta

theorem mergeRead_eq (s : State) (v reg : Word) : mergeRead s v reg = merged s v reg := by
  unfold mergeRead merged
  cases s.cfg.readMerge <;> rfl

/-- Settles O11: each row is a command with a skip phase and one of the four tests. -/
theorem group1SkipTests : Obligations.Group1SkipTests := by
  unfold Obligations.Group1SkipTests
  intro x l r v s
  exact ⟨answersSkip_of_runPhases rfl (skdeTest_eq s), answersSkip_of_runPhases rfl (skatTest_eq s),
    answersSkip_of_runPhases rfl (skdnTest_eq s), answersSkip_of_runPhases rfl (skerTest_eq s)⟩

/-- Settles O13: each row is a command with a read phase of one status register. -/
theorem statusReads : Obligations.StatusReads := by
  unfold Obligations.StatusReads
  intro x l k v s
  exact ⟨answersValue_of_runPhases rfl (mergeRead_eq s v s.sta), answersValue_of_runPhases rfl (mergeRead_eq s v s.stb)⟩

/-- Settles O15: both rows read nothing, and their answer shows the test of the sub-code's skip phase. -/
theorem readSlotsWithoutAction : Obligations.ReadSlotsWithoutAction := by
  unfold Obligations.ReadSlotsWithoutAction
  intro x l k v s
  rw [← skdnTest_eq, ← skerTest_eq]
  exact ⟨⟨_, rfl, runPhases_reply .., fun hl => unchanged_runPhases hl⟩,
    ⟨_, rfl, runPhases_reply .., fun hl => unchanged_runPhases hl⟩⟩

/-! ### The frame of a load and of its command's end -/

theorem SameOutside.trans {s x t : State} (h : SameOutside s x) (k : SameOutside x t) : SameOutside s t where
  regs := ⟨k.regs.1.trans h.regs.1, k.regs.2.1.trans h.regs.2.1, k.regs.2.2.trans h.regs.2.2⟩
  busy := k.busy.trans h.busy
  units u := by
    obtain ⟨hcyl, hfunc, hattached, hwlk, hev⟩ := h.units u
    obtain ⟨kcyl, kfunc, kattached, kwlk, kev⟩ := k.units u
    exact ⟨kcyl.trans hcyl, kfunc.trans hfunc, kattached.trans hattached, kwlk.trans hwlk, kev.trans hev⟩
  mem a := (k.mem a).trans (h.mem a)
  stores u a := (k.stores u a).trans (h.stores u a)
  context := h.context.trans k.context
  draws := k.draws.trans h.draws
  effects := k.effects.trans h.effects

/-- A state with the same registers, units and context, whatever its status registers and answer are. -/
theorem SameOutside.of_eq {s t : State}
    (h : t = { s with sta := t.sta, stb := t.stb, irq := t.irq, reply := t.reply }) : SameOutside s t := by
  rw [h]
  constructor <;> simp [SameRegs, SameUnit, SameMem, SameStore, SameContext, State.unit]

section
variable {s x : State} (w : Word) (q : Bool)

theorem SameOutside.endCommand (h : SameOutside s x) : SameOutside s (endCommand w q x) :=
  h.trans (unchanged_endCommand w q x).outside

theorem SameSta.endCommand {except : List Nat} (h : SameSta s x except) : SameSta s (endCommand w q x) except := by
  intro i hi
  refine ((unchanged_endCommand w q x).sta i ?_).trans (h i hi)
  simp only [List.mem_cons, not_or] at hi ⊢
  simp [hi]

theorem SameStb.endCommand {except : List Nat} (h : SameStb s x except) : SameStb s (endCommand w q x) except := by
  intro i hi
  refine ((unchanged_endCommand w q x).stb i ?_).trans (h i hi)
  simp only [List.mem_cons, not_or] at hi ⊢
  simp [hi]
end

/-! ### The loads -/

/-- Clearing a mask, by the list of its bits. -/
theorem getLsbD_and_not_bits (w : Word) {m : Word} {bits : List Nat} (hm : ∀ i < 18, m.getLsbD i = decide (i ∈ bits))
    (i : Nat) : (w &&& ~~~m).getLsbD i = if i ∈ bits then false else w.getLsbD i := by
  rw [BitVec.getLsbD_and, BitVec.getLsbD_not]
  rcases Nat.lt_or_ge i 18 with hi | hi
  · by_cases hmem : i ∈ bits <;> simp [hm i hi, hmem, hi, -BitVec.getLsbD_eq_getElem]
  · simp [BitVec.getLsbD_of_ge w i hi]

/-- Status A after LDDA's load, bit by bit (R134). -/
theorem getLsbD_lddaLoad_sta (v : Word) (s : State) (i : Nat) :
    (lddaLoad v s).sta.getLsbD i = if i ∈ [5, 6, 7] then (badGeometry v).getLsbD i else s.sta.getLsbD i := by
  show ((s.sta &&& ~~~(NXC ||| NXF ||| NXS)) ||| badGeometry v).getLsbD i = _
  rw [BitVec.getLsbD_or, getLsbD_and_not_bits s.sta (bits := [5, 6, 7]) (by decide)]
  split
  · exact Bool.false_or _
  · rename_i hi
    simp only [List.mem_cons, List.not_mem_nil, or_false, not_or] at hi
    obtain ⟨h5, h6, h7⟩ := hi
    simp [getLsbD_badGeometry, h5, h6, h7]

/-- Status A after CLRF's load, bit by bit (R135). -/
theorem getLsbD_clrfLoad_sta (v : Word) (s : State) (i : Nat) :
    (clrfLoad v s).sta.getLsbD i = if i ∈ [1, 4, 5, 6, 7, 8] then false else s.sta.getLsbD i :=
  getLsbD_and_not_bits s.sta (by decide) i

/-- Status B after CLRF's load, bit by bit (R135). -/
theorem getLsbD_clrfLoad_stb (v : Word) (s : State) (i : Nat) :
    (clrfLoad v s).stb.getLsbD i = if i ∈ [2, 3, 4, 5, 6, 7, 8] then false else s.stb.getLsbD i :=
  getLsbD_and_not_bits s.stb (by decide) i

/-- Settles O17: the load's frame is that of the state with the new address, and the recompute keeps bits 5 to 7. -/
theorem loadDiskAddress : Obligations.LoadDiskAddress := by
  unfold Obligations.LoadDiskAddress
  intro x r k v s
  refine gatedLoad_of_runPhases rfl fun hb w q => ?_
  have hframe : SameOutside { s with da := v } (lddaLoad v s) := .of_eq rfl
  obtain ⟨⟨hda, hma, hwc⟩, hbusy, hunits, hmem, hstores, hcontext, hdraws, heffects⟩ := hframe.endCommand w q
  obtain ⟨-, hkept, hstb, hderived⟩ := unchanged_endCommand w q (lddaLoad v s)
  have hsta : SameSta s (lddaLoad v s) [5, 6, 7] := fun i hi => by
    rw [bit, getLsbD_lddaLoad_sta, if_neg fun hm => hi (by simp [hm])]
  have hsticky : ∀ i ∈ [5, 6, 7], i ∉ [0, 2, 3] := by decide
  have hflag : ∀ i ∈ [5, 6, 7], bit (endCommand w q (lddaLoad v s)).sta i = (badGeometry v).getLsbD i := fun i hi => by
    rw [hkept i (hsticky i hi), bit, getLsbD_lddaLoad_sta, if_pos hi]
  refine ⟨hda, hma, hwc, hbusy.trans hb, fun u => ⟨hunits u, hstores u⟩, hmem, hcontext, hdraws, heffects,
    (hflag 5 (by simp)).trans ?_, (hflag 6 (by simp)).trans ?_, (hflag 7 (by simp)).trans ?_, hsta.endCommand w q, hstb,
    hderived⟩ <;>
    simp [getLsbD_badGeometry, -BitVec.getLsbD_eq_getElem]

/-- Settles O18: the command's end changes nothing of the state with the new register. -/
theorem loadMemoryAddressAndWordCount : Obligations.LoadMemoryAddressAndWordCount := by
  unfold Obligations.LoadMemoryAddressAndWordCount
  intro x r k v s
  constructor
  · refine gatedLoad_of_runPhases rfl fun hb w q => ?_
    obtain ⟨⟨⟨hda, hma, hwc⟩, hbusy, hunits, hmem, hstores, hcontext, hdraws, heffects⟩, hsta, hstb, hderived⟩ :=
      unchanged_endCommand w q (ldmaLoad v s)
    exact ⟨hma, hda, hwc, hbusy.trans hb, fun u => ⟨hunits u, hstores u⟩, hmem, hcontext, hdraws, heffects, hsta, hstb,
      hderived⟩
  · refine gatedLoad_of_runPhases rfl fun hb w q => ?_
    obtain ⟨⟨⟨hda, hma, hwc⟩, hbusy, hunits, hmem, hstores, hcontext, hdraws, heffects⟩, hsta, hstb, hderived⟩ :=
      unchanged_endCommand w q (ldwcLoad v s)
    exact ⟨hwc, hda, hma, hbusy.trans hb, fun u => ⟨hunits u, hstores u⟩, hmem, hcontext, hdraws, heffects, hsta, hstb,
      hderived⟩

/-- Settles O19: the load clears the bits of its two masks, and the recompute keeps every one of them. -/
theorem clearFlags : Obligations.ClearFlags := by
  unfold Obligations.ClearFlags
  intro x r k v s
  refine gatedLoad_of_runPhases rfl fun _ w q => ?_
  obtain ⟨-, hkeptA, hkeptB, hderived⟩ := unchanged_endCommand w q (clrfLoad v s)
  have hframe : SameOutside s (clrfLoad v s) := .of_eq rfl
  have hsta : SameSta s (clrfLoad v s) [1, 4, 5, 6, 7, 8] := fun i hi => by
    rw [bit, getLsbD_clrfLoad_sta, if_neg fun hm => hi (by simp [hm])]
  have hstb : SameStb s (clrfLoad v s) [2, 3, 4, 5, 6, 7, 8] := fun i hi => by
    rw [bit, getLsbD_clrfLoad_stb, if_neg fun hm => hi (by simp [hm])]
  have hstickyA : ∀ i ∈ [1, 4, 5, 6, 7, 8], i ∉ [0, 2, 3] := by decide
  have hstickyB : ∀ i ∈ [2, 3, 4, 5, 6, 7, 8], i ∉ [0, 1, 9] := by decide
  refine ⟨hframe.endCommand w q, fun i hi => ?_, hsta.endCommand w q, fun i hi => ?_, hstb.endCommand w q, hderived⟩
  · rw [hkeptA i (hstickyA i hi), bit, getLsbD_clrfLoad_sta, if_pos hi]
  · rw [hkeptB i (hstickyB i hi), bit, getLsbD_clrfLoad_stb, if_pos hi]

/-! ### The busy gate -/

/-- Every command but a refused one is its phases, the same actions with every pulse pattern (R93, R94). -/
theorem commandMeaning_eq_runPhases {g s1 s0 : Bool} {s : State}
    (h : ¬(g = true ∧ s1 = false ∧ s0 = false ∧ s.cfg.g2S0Load = .refuse)) (v : Word) :
    ∃ test read load, ∀ p, commandMeaning g s1 s0 p v s = .next (runPhases p test read load v s) :=
  match g, s1, s0, h with
  | false, false, false, _ | false, false, true, _ | false, true, false, _ | false, true, true, _
  | true, false, true, _ | true, true, false, _ | true, true, true, _ => ⟨_, _, _, fun _ => rfl⟩
  | true, false, false, h => ⟨_, _, _, fun _ => if_neg fun hp => h ⟨rfl, rfl, rfl, hp.2⟩⟩

/-- Clearing the load pulse leaves the group, the sub-code and the other two pulses of a code (R91). -/
theorem getLsbD_without_load (c : BitVec 7) :
    ∀ i ∈ [0, 1, 4, 5, 6], (c &&& 0b1111011#7).getLsbD i = c.getLsbD i := by
  revert c
  decide

/-- Settles O20: without its load pulse the command has the same skip and read phases, so the same answer. -/
theorem busyGateRejectsEveryLoad : Obligations.BusyGateRejectsEveryLoad := by
  unfold Obligations.BusyGateRejectsEveryLoad
  intro c v s hb hl hn
  have hkept := getLsbD_without_load c
  obtain ⟨test, read, load, hrun⟩ := commandMeaning_eq_runPhases (g := c.getLsbD 6) (s1 := c.getLsbD 5)
    (s0 := c.getLsbD 4) (fun ⟨h6, h5, h4, hr⟩ => hn ⟨(reservedCode_iff c).2 ⟨h6, h5, h4, hl⟩, hr⟩) v
  have hother : exec (decodeCommand (c &&& 0b1111011#7) v) s =
      .next (runPhases (pulsesOf (c &&& 0b1111011#7)) test read load v s) := by
    rw [exec_decodeCommand, hkept 6 (by simp), hkept 5 (by simp), hkept 4 (by simp), hrun]
  refine ⟨_, _, (exec_decodeCommand c v s).trans (hrun _), hother, ?_, rejected_runPhases hl hb⟩
  simp only [runPhases_reply, pulsesOf, hkept, List.mem_cons, true_or, or_true]

/-! ### Group 1 and the units -/

/-- No load phase of group 1 touches busy or a unit (R143). -/
theorem LoadResult.group1_units {c : BitVec 7} {v : Word} {s x : State} (h : LoadResult c v s x)
    (hg : c.getLsbD 6 = false) : x.busy = s.busy ∧ x.units = s.units := by
  cases h with
  | statusA _ hg' => exact absurd (hg.symm.trans hg') (by simp)
  | _ => exact ⟨rfl, rfl⟩

/-- Settles O25: the command is a load phase of group 1 and its end, neither of which touches a unit. -/
theorem group1NeverTouchesUnits : Obligations.Group1NeverTouchesUnits := by
  unfold Obligations.Group1NeverTouchesUnits
  intro c v s hg
  obtain ⟨t, ht⟩ : ∃ t, exec (decodeCommand c v) s = .next t := by
    rw [exec_decodeCommand]
    exact commandMeaning_answers_next ..
  rcases command_cases ht with ⟨w, q, x, rfl, hx⟩ | ⟨hr, -, -⟩
  · obtain ⟨hbusy, hunits⟩ := hx.group1_units hg
    exact ⟨_, ht, (endCommand_busy w q x).trans hbusy, (endCommand_units w q x).trans hunits⟩
  · exact absurd (hg.symm.trans hr.1) (by simp)

/-! ### What sets DON -/

/-- A recompute without pending bits in status A shows DON only where the state before it does (R111). -/
theorem done_of_recompute {pb : Word} {s x : State} (h : (recompute 0 pb x).sta.getLsbD 1 = true) (hx : x.sta = s.sta) :
    s.sta.getLsbD 1 = true := by
  rw [getLsbD_recompute_sta_kept 0 pb x (by omega) (by omega) (by omega), hx] at h
  simpa [-BitVec.getLsbD_eq_getElem] using h

/-- A go check clears DON or keeps it (R165). -/
theorem goCheck_done {s : State} (h : (goCheck s).sta.getLsbD 1 = true) : s.sta.getLsbD 1 = true := by
  rcases goCheck_cases s with ⟨-, -, e⟩ | ⟨-, e⟩ <;> rw [e] at h
  · rw [getLsbD_startUnit_sta] at h
    simp at h
  · exact h

/-- No load phase sets DON. -/
theorem LoadResult.done {c : BitVec 7} {v : Word} {s x : State} (hx : LoadResult c v s x) (h : x.sta.getLsbD 1 = true) :
    s.sta.getLsbD 1 = true := by
  cases hx with
  | diskAddress =>
    rw [getLsbD_lddaLoad_sta] at h
    exact h
  | clearFlags =>
    rw [getLsbD_clrfLoad_sta] at h
    exact absurd h (by simp)
  | statusA _ _ _ n hn => exact (hn 1 (by omega)).symm.trans (goCheck_done h)
  | none | rejected | memoryAddress | wordCount => exact h

/-- A completion sets DON only as that of a data function, in its first phase (R173, R174). -/
theorem completion_done {f : Func} {u : UnitNo} {s t : State} (hrun : completion f u s = .next t)
    (h : t.sta.getLsbD 1 = true) :
    s.sta.getLsbD 1 = true ∨ (s.unit u).func.second = false ∧ Func.isData f = true := by
  rcases completion_cases hrun with ⟨-, -, rfl⟩ | ⟨hp, hf, -⟩ | ⟨-, c, -, rfl⟩ | ⟨-, -, rfl⟩ | ⟨-, -, rfl⟩
  · exact .inl h
  · exact .inr ⟨hp, hf⟩
  · exact .inl (done_of_recompute h rfl)
  · exact .inl (done_of_recompute h rfl)
  · exact .inl h

/-- No other call of the host sets DON: it ends in a recompute at most (R260). -/
theorem hostCall_done {call : HostCall} {s t : State} (hc : ∀ u, call ≠ .eventFired u)
    (hrun : hostCall call s = .next t) (h : t.sta.getLsbD 1 = true) : s.sta.getLsbD 1 = true := by
  cases call with
  | command c v =>
    rcases command_cases hrun with ⟨w, q, x, rfl, hx⟩ | ⟨-, -, rfl⟩
    · exact hx.done (done_of_recompute h rfl)
    · exact h
  | eventFired u => exact absurd rfl (hc u)
  | reset =>
    cases hrun
    have hcleared : (0 : Word).getLsbD 1 = true := done_of_recompute (s := { s with sta := 0 }) h rfl
    simp at hcleared
  | attach u i =>
    rcases attachUnit_next hrun with rfl | ⟨-, -, rfl⟩
    · exact h
    · exact done_of_recompute h rfl
  | detach u | setWriteLock u b =>
    cases hrun
    exact done_of_recompute h rfl
  | poke a v =>
    obtain ⟨-, rfl⟩ := pokeMemory_next hrun
    exact h
  | tick | ready | storageFault _ =>
    cases hrun
    exact h

theorem isData_iff (f : Func) : Func.isData f = true ↔ f ∈ [.read, .write, .rdall, .wrall, .wrchk] := by
  cases f <;> decide

/-- Settles O58: of the cases of `step_cases` only the due completion of a data function sets DON. -/
theorem doneIsSetOnlyByDataFunctions : Obligations.DoneIsSetOnlyByDataFunctions := by
  unfold Obligations.DoneIsSetOnlyByDataFunctions
  intro s t hstep hs ht
  rcases step_cases hstep with ⟨rfl, -, -⟩ | ⟨u, calls, n, hdue, hrun⟩ | ⟨call, rest, -, -, hother, hrun⟩ |
    ⟨u, rest, -, -, rfl⟩
  · exact absurd (hs.symm.trans ht) (by simp)
  · rcases completion_done hrun ht with hset | ⟨hp, hf⟩
    · exact absurd (hs.symm.trans hset) (by simp)
    · rw [unschedule_unit_self] at hp
      exact ⟨u, hdue, hp, (isData_iff _).1 hf⟩
  · exact absurd (hs.symm.trans (hostCall_done (s := { s with host := rest }) hother hrun ht)) (by simp)
  · exact absurd (hs.symm.trans ht) (by simp)

end Sys2Proof.Machine

/-! The group-2 commands: their skip tests, their reads, the reserved load and the status-A loads with the go trigger
(42_group2_commands.md R150 to R166). -/

namespace Sys2Proof.Machine

/-! ### Skip tests and reads -/

/-- Sub-code 0 is its three phases unless it is the reserved load that is refused (R97, R161). -/
theorem group2Sub0_eq_runPhases {p : Pulses} {s : State} (h : p.load = false ∨ s.cfg.g2S0Load = .clearField)
    (v : Word) : group2Sub0 p v s = .next (runPhases p noSkipTest rdcyRead lsa0Load v s) := by
  refine if_neg fun ⟨hl, hr⟩ => ?_
  rcases h with h | h
  · exact absurd (h.symm.trans hl) (by decide)
  · exact absurd (h.symm.trans hr) (by decide)

theorem skg2Test_always {s : State} (h : s.cfg.g2SkipCond = .always) : skg2Test s = true := by
  rw [skg2Test, h]

theorem skg2Test_flags {s : State} {a b : Word} (h : s.cfg.g2SkipCond = .flags a b) :
    skg2Test s = decide (s.sta &&& a ≠ 0 ∨ s.stb &&& b ≠ 0) := by
  rw [Bool.eq_iff_iff, decide_eq_true_iff, skg2Test, h, Bool.or_eq_true, hasAny_iff_ne_zero, hasAny_iff_ne_zero]

theorem skg2Test_uninterpreted {s : State} (h : s.cfg.g2SkipCond = .uninterpreted) :
    skg2Test s = Config.openSkipCond s := by
  rw [skg2Test, h]

/-- RDCY reads the selected unit's cylinder, right-justified (R155). -/
theorem rdcyRead_eq (v : Word) (s : State) :
    rdcyRead v s = merged s v (BitVec.ofNat 18 (s.unit (unitField s.sta)).cyl.toNat) := by
  rw [BitVec.ofNat_toNat]
  exact mergeRead_eq s v _

/-- Settles O12: SKG2's test by its parameter; the other three skip phases test nothing. -/
theorem group2SkipTests : Obligations.Group2SkipTests := by
  unfold Obligations.Group2SkipTests
  intro x l r v s
  exact ⟨fun h => answersSkip_of_runPhases rfl (skg2Test_always h),
    fun _ _ h => answersSkip_of_runPhases rfl (skg2Test_flags h),
    fun h => answersSkip_of_runPhases rfl (skg2Test_uninterpreted h),
    answersSkip_of_runPhases rfl rfl, answersSkip_of_runPhases rfl rfl,
    fun h => answersSkip_of_runPhases (group2Sub0_eq_runPhases h v) rfl⟩

/-- Settles O14: each row is a command with a read phase of one register. -/
theorem registerReads : Obligations.RegisterReads := by
  unfold Obligations.RegisterReads
  intro x l k v s
  exact ⟨answersValue_of_runPhases rfl (mergeRead_eq s v s.da), answersValue_of_runPhases rfl (mergeRead_eq s v s.ma),
    answersValue_of_runPhases rfl (mergeRead_eq s v s.wc),
    fun h => answersValue_of_runPhases (group2Sub0_eq_runPhases h v) (rdcyRead_eq v s)⟩

/-! ### The status-A loads -/

/-- Instruction `i` is a status-A load with operand `v`, leaving the word `n` before the go check (R162 to R164). -/
abbrev StatusALoad (i : Instr) (n : Word) (x r k : Bool) (v : Word) (s : State) : Prop :=
  i = .lsac x r k v ∧ n = afterLsac s v ∨ i = .lsao x r k v ∧ n = afterLsao s v ∨ i = .lsar x r k v ∧ n = afterLsar s v

/-- The clear-only load, in either mode, as the go check of the word it leaves (R162). -/
theorem lsacLoad_eq (v : Word) (s : State) : lsacLoad v s = goCheck { s with sta := afterLsac s v } := by
  unfold lsacLoad afterLsac
  cases s.cfg.clearLoadMode <;> rfl

/-- A status-A load is gated by busy; when it is performed, its effect is that of the go check and of the command's end
(R131, R160). -/
theorem StatusALoad.gatedLoad {i : Instr} {n : Word} {x r k : Bool} {v : Word} {s : State} {effect : State → Prop}
    (hi : StatusALoad i n x r k v s) (he : ∀ w q, effect (endCommand w q (goCheck { s with sta := n }))) :
    GatedLoad i s v r k effect := by
  rcases hi with ⟨rfl, rfl⟩ | ⟨rfl, rfl⟩ | ⟨rfl, rfl⟩
  · exact gatedLoad_of_runPhases rfl fun _ w q => lsacLoad_eq v s ▸ he w q
  · exact gatedLoad_of_runPhases rfl fun _ => he
  · exact gatedLoad_of_runPhases rfl fun _ => he

/-- A gated load while not busy is performed (R131). -/
theorem GatedLoad.performed {i : Instr} {s : State} {v : Word} {r k : Bool} {effect : State → Prop}
    (h : GatedLoad i s v r k effect) (hb : s.busy = false) :
    ∃ t, exec i s = .next t ∧ AnsweredLoad v r k t ∧ effect t := by
  obtain ⟨t, hrun, hanswer, -, heffect⟩ := h
  exact ⟨t, hrun, hanswer, heffect hb⟩

/-! ### Loads that start nothing -/

/-- A loaded word with GO = 0, or one that selects a unit with a pending event, starts nothing (R165). -/
theorem goCheck_load_idle {s : State} {n : Word} (h : bit n 9 = false ∨ (s.unit (unitField n)).ev ≠ none) :
    goCheck { s with sta := n } = { s with sta := n } := by
  rcases goCheck_cases { s with sta := n } with ⟨hgo, hfree, -⟩ | ⟨-, heq⟩
  · rcases h with h | h
    · exact absurd (h.symm.trans hgo) (by decide)
    · exact absurd (hfree.symm.trans (Option.isSome_iff_ne_none.2 h)) (by decide)
  · exact heq

/-- The command's end after a load that starts nothing. -/
theorem loadedWithoutGo_endCommand (w : Word) (q : Bool) (s : State) (n : Word) :
    LoadedWithoutGo s n (endCommand w q { s with sta := n }) := by
  obtain ⟨-, hsta, hstb, hderived⟩ := unchanged_endCommand w q { s with sta := n }
  have hframe : SameOutside s { s with sta := n } := .of_eq rfl
  exact ⟨hframe.endCommand w q, hsta, hstb, hderived⟩

/-- Settles O23: the go check leaves the loaded word, and the command's end keeps it. -/
theorem statusALoadWithoutGo : Obligations.StatusALoadWithoutGo := by
  unfold Obligations.StatusALoadWithoutGo
  intro i n x r k v s hb hi hidle
  refine (StatusALoad.gatedLoad hi fun w q => ?_).performed hb
  rw [goCheck_load_idle hidle]
  exact loadedWithoutGo_endCommand w q s n

/-- Clearing the read/write field clears GO (R23). -/
theorem go_false_of_clearField (w : Word) : bit (w &&& ~~~RW) 9 = false := by
  rw [bit, BitVec.getLsbD_and, BitVec.getLsbD_not, getLsbD_RW]
  simp

/-- Settles O22: the refused command only sets the mark; the other leaves GO = 0, so its go check starts nothing. -/
theorem reservedLoadByItsParameter : Obligations.ReservedLoadByItsParameter := by
  unfold Obligations.ReservedLoadByItsParameter
  intro x r k v s
  refine ⟨fun h => if_pos ⟨rfl, h⟩, fun h => ?_⟩
  refine gatedLoad_of_runPhases (group2Sub0_eq_runPhases (.inr h) v) fun _ w q => ?_
  have hload : lsa0Load v s = { s with sta := s.sta &&& ~~~RW } :=
    goCheck_load_idle (.inl (go_false_of_clearField s.sta))
  rw [hload]
  exact loadedWithoutGo_endCommand w q s _

/-! ### Loads that start a unit -/

theorem absDiff_eq_distance (a b : Nat) : absDiff a b = distance a b := by
  unfold absDiff distance
  split <;> omega

/-- The delay of R210, in the terms of the statements. -/
theorem goDelay_eq_delayOf (s : State) (u : UnitNo) (f : Func) : goDelay s u f = delayOf s.cfg (s.unit u) f s.da := by
  unfold goDelay delayOf
  rw [absDiff_eq_distance, CYL]
  cases (s.unit u).attached <;> cases f <;> rfl

/-- A loaded word with GO = 1 starts the unit it selects when that has no pending event (R165). -/
theorem goCheck_load_start {s : State} {n : Word} (hgo : bit n 9 = true) (hfree : (s.unit (unitField n)).ev = none) :
    goCheck { s with sta := n } = startUnit (unitField n) (funcField n) { s with sta := n } := by
  rcases goCheck_cases { s with sta := n } with ⟨-, -, heq⟩ | ⟨h, -⟩
  · exact heq
  · rcases h with h | h
    · exact absurd (h.symm.trans hgo) (by decide)
    · exact absurd hfree (Option.isSome_iff_ne_none.1 h)

/-- A go leaves the other units' records (R165). -/
theorem startUnit_unit_other {u v : UnitNo} (h : v ≠ u) (f : Func) (s : State) :
    (startUnit u f s).unit v = s.unit v := by
  rw [startUnit_unit, if_neg h.symm]

/-- The started unit's record: its function and its event are new (R165, R210). -/
theorem startUnit_unit_self (u : UnitNo) (f : Func) (s : State) :
    (startUnit u f s).unit u =
      { s.unit u with func := ⟨f, false⟩, ev := some (delayOf s.cfg (s.unit u) f s.da) } := by
  rw [startUnit_unit, if_pos rfl, goDelay_eq_delayOf]

/-- A go leaves every unit's store. -/
theorem startUnit_store (u : UnitNo) (f : Func) (s : State) (v : UnitNo) :
    ((startUnit u f s).unit v).store = (s.unit v).store := by
  rw [startUnit_unit]
  split
  · subst v
    rfl
  · rfl

section
variable {w : Word} {q : Bool} {u : UnitNo} {f : Func} {s : State} {i : Nat}

/-- Status A after a go and the command's end, outside the derived bits (R111, R165). -/
theorem bit_endCommand_startUnit_sta (hi : i ∉ [0, 2, 3]) :
    bit (endCommand w q (startUnit u f s)).sta i =
      (bit s.sta i && !decide (i = 1 ∨ i = 4 ∨ i = 8) && !(decide (i = 9) && s.cfg.goAutoclear)) :=
  ((unchanged_endCommand w q (startUnit u f s)).sta i hi).trans (getLsbD_startUnit_sta u f s i)

/-- Status B after a go and the command's end, outside the derived bits (R112, R165). -/
theorem bit_endCommand_startUnit_stb (hi : i ∉ [0, 1, 9]) :
    bit (endCommand w q (startUnit u f s)).stb i =
      (bit s.stb i && !decide (2 ≤ i ∧ i < 9) && !decide (i = 17 - u.val)) :=
  ((unchanged_endCommand w q (startUnit u f s)).stb i hi).trans (getLsbD_startUnit_stb u f s i)
end

/-- A load keeps the bits of status A outside the read/write field (R160). -/
theorem StatusALoad.low_bits {i : Instr} {n : Word} {x r k : Bool} {v : Word} {s : State}
    (hi : StatusALoad i n x r k v s) {j : Nat} (hj : j < 9) : bit n j = bit s.sta j := by
  obtain ⟨-, hmask, hclear, hset, hreplace⟩ := low_bits_kept s.sta v j hj
  rcases hi with ⟨-, rfl⟩ | ⟨-, rfl⟩ | ⟨-, rfl⟩
  · unfold afterLsac
    split
    · exact hmask
    · exact hclear
  · exact hset
  · exact hreplace

/-- The command's end after a go: the recompute keeps what the go leaves in the units and in the other bits. -/
theorem started_endCommand (w : Word) (q : Bool) {s : State} {n : Word} (hgo : bit n 9 = true)
    (hlow : ∀ i < 9, bit n i = bit s.sta i) :
    Started s n (endCommand w q (startUnit (unitField n) (funcField n) { s with sta := n })) where
  busy := by simp
  func := by rw [endCommand_unit, startUnit_unit_self]
  ev := by
    rw [endCommand_unit, startUnit_unit_self]
    rfl
  rest := by
    rw [endCommand_unit, startUnit_unit_self]
    exact ⟨rfl, rfl, rfl⟩
  others u hu := by
    rw [SameUnit, endCommand_unit, startUnit_unit_other hu]
    exact ⟨rfl, rfl, rfl, rfl, rfl⟩
  regs := by simp [SameRegs]
  mem := by simp [SameMem]
  stores u := by
    rw [SameStore, endCommand_unit, startUnit_store]
    exact fun _ => rfl
  context := by simp [SameContext]
  draws := by simp
  effects := by simp
  field i hi := by
    rw [bit_endCommand_startUnit_sta (by simp; omega)]
    simp [show ¬(i = 1 ∨ i = 4 ∨ i = 8) by omega, show i ≠ 9 by omega]
  go := by
    rw [bit_endCommand_startUnit_sta (by decide)]
    simp [hgo]
  cleared := by
    refine ⟨?_, ?_, ?_⟩ <;> rw [bit_endCommand_startUnit_sta (by decide)] <;> simp
  kept := by
    refine ⟨?_, ?_, ?_⟩ <;> rw [bit_endCommand_startUnit_sta (by decide), ← hlow _ (by decide)] <;> simp
  sticky i hi := by
    have hi' : 2 ≤ i ∧ i < 9 := by revert i; decide
    rw [bit_endCommand_startUnit_stb (by simp; omega)]
    simp [hi']
  attention := by
    rw [bit_endCommand_startUnit_stb (by simp; omega)]
    simp
  otherAttention i hi hne := by
    rw [bit_endCommand_startUnit_stb (by simp; omega)]
    simp [hne, show ¬(2 ≤ i ∧ i < 9) by omega]
  derived := (unchanged_endCommand w q _).derived

/-- Settles O24: the go check starts the unit the loaded word selects, and the command's end keeps that. -/
theorem goStartsTheSelectedUnit : Obligations.GoStartsTheSelectedUnit := by
  unfold Obligations.GoStartsTheSelectedUnit
  intro i n x r k v s hb hi hgo hfree
  refine (StatusALoad.gatedLoad hi fun w q => ?_).performed hb
  rw [goCheck_load_start hgo hfree]
  exact started_endCommand w q hgo fun _ => StatusALoad.low_bits hi

end Sys2Proof.Machine

/-! The completions of a unit that transfer nothing: what each leaves, and which one a step runs (43_unit_state_machine.md R170
to R177, 44_timing.md R214). -/

namespace Sys2Proof.Machine

/-! ### Running a function row -/

section
variable {f : Func} {u : UnitNo} {ied iea go : Bool} {flags : BitVec 9} {s : State}

/-- A due function row is the completion of its function, the event off the schedule (R38, R170). -/
theorem exec_functionRow_due (hdue : (s.unit u).ev = some 0) :
    exec (functionRow f u ied iea go flags) s = completion f u (s.unschedule u) := by
  rw [exec_functionRow_eq, fireEvent_due hdue]

theorem unschedule_second (hfirst : (s.unit u).func.second = false) :
    ((s.unschedule u).unit u).func.second = false := by
  rw [unschedule_unit_self, hfirst]

/-- What a function does with the words depends on the parameters only. -/
theorem moveOf_unschedule : moveOf (s.unschedule u) f = moveOf s f := by cases f <;> rfl

/-- The first phase of a function that moves data (R175 to R188). -/
theorem completion_data {x : State} (hf : Func.isData f = true) (hfirst : (x.unit u).func.second = false) :
    completion f u x = .next (dataFunction (moveOf x f) u x) := by
  cases f with
  | idle | recal | seek => exact absurd hf (by decide)
  | read | write | rdall | wrall | wrchk => rw [completion, firstPhase_eq hfirst]

theorem exec_dataRow (hf : Func.isData f = true) (hdue : (s.unit u).ev = some 0)
    (hfirst : (s.unit u).func.second = false) :
    exec (functionRow f u ied iea go flags) s = .next (dataFunction (moveOf s f) u (s.unschedule u)) := by
  rw [exec_functionRow_due hdue, completion_data hf (unschedule_second hfirst), moveOf_unschedule]
end

/-! ### The step that runs it -/

/-- A single due unit is the whole list of due units. -/
theorem dueUnits_eq_singleton {s : State} {u : UnitNo} (hdue : (s.unit u).ev = some 0)
    (honly : ∀ v, (s.unit v).ev = some 0 → v = u) : s.dueUnits = [u] := by
  have hu : ∀ v, s.due v = (v == u) := by
    intro v
    rw [Bool.eq_iff_iff, due_iff, beq_iff_eq]
    exact ⟨honly v, fun h => h ▸ hdue⟩
  have hfilter : ∀ u : UnitNo, allUnits.filter (fun v => v == u) = [u] := by decide
  rw [State.dueUnits, funext hu, hfilter]

/-- Where the host's next call waits or there is none, a completion that is due comes first. -/
theorem nextMove_of_dueMove {s : State} {move : HostCall × State} (hwaits : s.nextWaits)
    (hmove : dueMove s = some move) : nextMove s = some move := by
  unfold nextMove
  rcases hwaits with hhost | ⟨rest, hhost⟩ | ⟨c, v, rest, hhost⟩ <;> rw [hhost]
  · exact hmove
  · exact congrArg (Option.or · _) hmove
  · exact congrArg (Option.or · _) hmove

/-- Settles O5: the host's completion call is the next step by `step_call`, and so is that of a single due unit. -/
theorem stepRunsTheDueCompletion : Obligations.StepRunsTheDueCompletion := by
  unfold Obligations.StepRunsTheDueCompletion
  refine ⟨fun s u rest hhost ied iea go flags => ?_, fun s u hwaits hdue honly ied iea go flags => ?_⟩
  · rw [step_call hhost (by simp [HostCall.waits])]
    exact exec_completionOf u ied iea go flags { s with host := rest } { s with host := rest }
  · have hmove : dueMove s = some (.eventFired u, s) := by rw [dueMove, dueUnits_eq_singleton hdue honly]
    rw [step, nextMove_of_dueMove hwaits hmove]
    exact exec_completionOf u ied iea go flags s s

/-! ### The frame of a completion -/

/-- What no completion without a transfer touches: all but the record of unit `u`, the status registers, the interrupt level,
busy and the effects. The stores are in the frame, that of `u` too. -/
structure CompletionFrame (u : UnitNo) (s t : State) : Prop where
  others : ∀ v, v ≠ u → SameUnit s t v
  stores : ∀ v, SameStore s t v
  mem : SameMem s t
  regs : SameRegs s t
  context : SameContext s t
  draws : t.draws = s.draws
  reply : t.reply = s.reply

/-- A record that is replaced by one with the same store. -/
theorem setUnit_store {s : State} {u : UnitNo} {d : Drive} (h : d.store = (s.unit u).store) (v : UnitNo) :
    ((s.setUnit u d).unit v).store = (s.unit v).store := by
  rw [unit_setUnit]
  split
  · subst v
    exact h
  · rfl

theorem CompletionFrame.refl (u : UnitNo) (s : State) : CompletionFrame u s s := by
  constructor <;> simp [SameUnit, SameStore, SameMem, SameRegs, SameContext]

section
variable {u : UnitNo} {s x t : State}

theorem CompletionFrame.setUnit (h : CompletionFrame u s x) {d : Drive} (hd : d.store = (x.unit u).store) :
    CompletionFrame u s (x.setUnit u d) where
  others v hv := by
    rw [SameUnit, unit_setUnit_other x d (Ne.symm hv)]
    exact h.others v hv
  stores v := by
    rw [SameStore, setUnit_store hd]
    exact h.stores v
  mem := h.mem
  regs := h.regs
  context := h.context
  draws := h.draws
  reply := h.reply

/-- Status registers, interrupt level, busy and effects are outside the frame. -/
theorem CompletionFrame.congr (h : CompletionFrame u s x)
    (e : t = { x with sta := t.sta, stb := t.stb, irq := t.irq, busy := t.busy, effects := t.effects }) :
    CompletionFrame u s t := by
  rw [e]
  exact ⟨h.others, h.stores, h.mem, h.regs, h.context, h.draws, h.reply⟩

theorem CompletionFrame.recompute (h : CompletionFrame u s x) (pa pb : Word) : CompletionFrame u s (recompute pa pb x) :=
  h.congr (by rw [recompute_eq])

theorem completionFrame_unschedule (u : UnitNo) (s : State) : CompletionFrame u s (s.unschedule u) :=
  (CompletionFrame.refl u s).setUnit rfl

theorem firedUnit_of_eq (h : t.unit u = (s.unschedule u).unit u) : FiredUnit s t u := by
  rw [FiredUnit, h, unschedule_unit_self]
  exact ⟨rfl, rfl, rfl, rfl, rfl⟩

/-- A recompute keeps a bit of status A that is neither derived nor pending. -/
theorem SameSta.recompute {pa pb : Word} {except : List Nat} (h : SameSta s x except)
    (hpa : ∀ i, i ∉ except → pa.getLsbD i = false) : SameSta s (recompute pa pb x) except := by
  intro i hi
  refine Eq.trans ?_ (h i hi)
  simp only [List.mem_cons, not_or] at hi
  obtain ⟨h0, h2, h3, hexcept⟩ := hi
  rw [bit, getLsbD_recompute_sta_kept pa pb x h0 h2 h3, hpa i hexcept, Bool.or_false]

/-- A recompute keeps a bit of status B that is neither derived nor pending. -/
theorem SameStb.recompute {pa pb : Word} {except : List Nat} (h : SameStb s x except)
    (hpb : ∀ i, i ≠ 9 → i ∉ except → pb.getLsbD i = false) : SameStb s (recompute pa pb x) except := by
  intro i hi
  refine Eq.trans ?_ (h i hi)
  simp only [List.mem_cons, not_or] at hi
  obtain ⟨h0, h1, h9, hexcept⟩ := hi
  rw [bit, getLsbD_recompute_stb_kept pa pb x h0 h1 h9, hpb i h9 hexcept, Bool.or_false]

/-- The bits that a completion passes as pending leave what a recompute derives, SUFU apart. -/
theorem PendingOk.derivedWith {pa pb : Word} {b : Bool} (hp : PendingOk pa pb) (hb : pb.getLsbD 9 = b) (x : State) :
    DerivedWith b (Machine.recompute pa pb x) :=
  hb ▸ derivedWith_recompute pa pb x (hp.sta_false (by omega) (by omega)) (hp.sta_false (by omega) (by omega))
    (hp.sta_false (by omega) (by omega)) (hp.stb_false (by omega)) (hp.stb_false (by omega))
end

/-! ### Idle and positioning -/

/-- Settles O26: the idle completion writes busy only. -/
theorem idleCompletion : Obligations.IdleCompletion := by
  unfold Obligations.IdleCompletion
  intro u ied iea go flags s hdue hfirst
  have hrun : exec (.funcIdle u ied iea go flags) s = .next (idleComplete (s.unschedule u)) := by
    refine (exec_functionRow_due (f := .idle) hdue).trans ?_
    rw [completion, firstPhase_eq (unschedule_second hfirst)]
  have hframe : CompletionFrame u s (idleComplete (s.unschedule u)) := (completionFrame_unschedule u s).congr rfl
  exact ⟨_, hrun, rfl, rfl, rfl, rfl, hframe.regs, firedUnit_of_eq rfl, hframe.others, hframe.stores, hframe.mem,
    hframe.context, rfl, rfl, rfl⟩

theorem seekDelay_eq (cfg : Config) (c c0 : Nat) :
    seekDelay cfg c c0 = max cfg.minDispatch (cfg.seekTicksPerCyl * distance c c0) := by
  rw [seekDelay, absDiff_eq_distance]

section
variable (u : UnitNo) (c : BitVec 8) (s : State)

/-- The unit after phase 1: moved, and settling after the delay of the distance (R172, R211). -/
theorem seekPhase1_unit_self :
    (seekPhase1 u c s).unit u =
      { s.unit u with
        cyl := c
        func := ⟨.seek, true⟩
        ev := some (max s.cfg.minDispatch (s.cfg.seekTicksPerCyl * distance c.toNat (s.unit u).cyl.toNat)) } := by
  rw [seekPhase1, recompute_unit, unit_setUnit_self, seekDelay_eq]

theorem completionFrame_seekPhase1 : CompletionFrame u s (seekPhase1 u c (s.unschedule u)) := by
  have hbusy : CompletionFrame u s { s.unschedule u with busy := false } := (completionFrame_unschedule u s).congr rfl
  exact CompletionFrame.recompute (hbusy.setUnit (by rfl)) 0 0
end

/-- The rows of SEEK and RECAL in their first phase, with the cylinder each moves to (R172). -/
theorem exec_seekPhase1 {i : Instr} {c : BitVec 8} {u : UnitNo} {ied iea go : Bool} {flags : BitVec 9} {s : State}
    (hi : i = .funcSeek u ied iea go flags ∧ c = s.da.extractLsb' 10 8 ∨ i = .funcRecal u ied iea go flags ∧ c = 0)
    (hdue : (s.unit u).ev = some 0) (hfirst : (s.unit u).func.second = false) :
    exec i s = .next (seekPhase1 u c (s.unschedule u)) := by
  have hphase := unschedule_second hfirst
  rcases hi with ⟨rfl, rfl⟩ | ⟨rfl, rfl⟩
  · refine (exec_functionRow_due (f := .seek) hdue).trans ?_
    rw [completion, hphase]
    rfl
  · refine (exec_functionRow_due (f := .recal) hdue).trans ?_
    rw [completion, firstPhase_eq hphase]

/-- Settles O27: phase 1 sets the unit's record and ends in a recompute without pending bits. -/
theorem seekPhaseOne : Obligations.SeekPhaseOne := by
  unfold Obligations.SeekPhaseOne
  intro i c u ied iea go flags s hi hdue hfirst
  have hframe := completionFrame_seekPhase1 u c s
  refine ⟨_, exec_seekPhase1 hi hdue hfirst, recompute_busy 0 0 _, ?_, ?_, ?_, ?_, ?_, hframe.others, hframe.stores,
    hframe.mem, hframe.regs, hframe.context, hframe.draws, recompute_effects 0 0 _, hframe.reply, sameSta_recompute _,
    sameStb_recompute _, derived_recompute _⟩ <;>
    rw [seekPhase1_unit_self, unschedule_unit_self]
  rfl

/-- Settles O28: phase 2 is a recompute with the unit's attention pending. -/
theorem seekPhaseTwo : Obligations.SeekPhaseTwo := by
  unfold Obligations.SeekPhaseTwo
  intro u ied iea go flags s hdue hsecond
  have hrun : exec (.funcSeek u ied iea go flags) s = .next (seekPhase2 u (s.unschedule u)) := by
    refine (exec_functionRow_due (f := .seek) hdue).trans ?_
    rw [completion, unschedule_unit_self, hsecond]
    rfl
  have hframe : CompletionFrame u s (seekPhase2 u (s.unschedule u)) := (completionFrame_unschedule u s).recompute 0 (ATTN u)
  have hbit : bit (seekPhase2 u (s.unschedule u)).stb (17 - u.val) = true := by
    rw [seekPhase2, bit, getLsbD_recompute_stb_high 0 (ATTN u) _ (by omega), getLsbD_ATTN]
    simp
  have hderived : Derived (seekPhase2 u (s.unschedule u)) :=
    (pendingOk_attention u).derivedWith (by simp; omega) (s.unschedule u)
  have hsta : SameSta s (seekPhase2 u (s.unschedule u)) [] :=
    SameSta.recompute (x := s.unschedule u) (fun _ _ => rfl) (by simp)
  have hstb : SameStb s (seekPhase2 u (s.unschedule u)) [17 - u.val] :=
    SameStb.recompute (x := s.unschedule u) (fun _ _ => rfl) fun i _ hi => by simpa using hi
  exact ⟨_, hrun, hbit, recompute_busy _ _ _, firedUnit_of_eq (recompute_unit _ _ _ u), hframe.others, hframe.stores,
    hframe.mem, hframe.regs, hframe.context, hframe.draws, recompute_effects _ _ _, hframe.reply, hsta, hstb, hderived⟩

/-! ### Data functions that stop before the transfer -/

section
variable {m : Move} {u : UnitNo} {s : State}

theorem dataFunction_detached (h : (s.unit u).attached = false) :
    dataFunction m u s = (endData DON SUFU s).raise (.notAttached u) := if_pos h

theorem dataFunction_locked (hm : m = .write) (ha : (s.unit u).attached = true) (he : s.cfg.writeLockEnforced = true)
    (hl : (s.unit u).wlk = true) : dataFunction m u s = endData (DON ||| WLE) 0 s := by
  rw [dataFunction, if_neg (by simp [ha]), if_pos ⟨he, hm, hl⟩]

theorem not_stopped_by_lock (hw : m = .write → Writable s u) :
    ¬(s.cfg.writeLockEnforced = true ∧ m = .write ∧ (s.unit u).wlk = true) := by
  rintro ⟨he, hm, hl⟩
  rcases hw hm with h | h
  · simp [he] at h
  · simp [hl] at h

theorem dataFunction_badAddress (ha : (s.unit u).attached = true) (hw : m = .write → Writable s u)
    (hda : ¬validAddress s.da) : dataFunction m u s = endData DON SUFU (s.orSta (badGeometry s.da)) := by
  rw [dataFunction, if_neg (by simp [ha]), if_neg (not_stopped_by_lock hw),
    if_pos fun h => hda ((badGeometry_eq_zero s.da).1 h)]

theorem dataFunction_transfer (ha : (s.unit u).attached = true) (hw : m = .write → Writable s u)
    (hda : validAddress s.da) : dataFunction m u s = transfer m u s := by
  rw [dataFunction, if_neg (by simp [ha]), if_neg (not_stopped_by_lock hw),
    if_neg (not_not.2 ((badGeometry_eq_zero s.da).2 hda))]
end

/-- The end of a data function of unit `u` that moved nothing: `except` lists the bits of status A that it may have set,
`pendingSufu` says that SUFU was pending (R175, R176, R177). -/
structure Stopped (u : UnitNo) (pendingSufu : Bool) (except : List Nat) (s t : State) : Prop where
  frame : CompletionFrame u s t
  unit : FiredUnit s t u
  busy : t.busy = false
  done : bit t.sta 1 = true
  sta : SameSta s t except
  stb : SameStb s t []
  derived : DerivedWith pendingSufu t

/-- The end of a data function from a state that differs from `s`, its event fired, in status A only. -/
theorem stopped_endData {u : UnitNo} {s x : State} {pa pb : Word} {b : Bool} {except : List Nat}
    (hx : x = { s.unschedule u with sta := x.sta }) (hsta : SameSta s x except) (hp : PendingOk pa pb)
    (hdone : pa.getLsbD 1 = true) (hpa : ∀ i, i ∉ except → pa.getLsbD i = false) (hb : pb.getLsbD 9 = b)
    (hpb : ∀ i, i ≠ 9 → pb.getLsbD i = false) : Stopped u b except s (endData pa pb x) where
  frame := by
    have hstart : CompletionFrame u s { x with busy := false } :=
      (completionFrame_unschedule u s).congr (by rw [hx])
    exact hstart.recompute pa pb
  unit := by
    refine firedUnit_of_eq ((recompute_unit pa pb _ u).trans ?_)
    rw [hx]
    rfl
  busy := recompute_busy pa pb _
  done := by
    rw [endData, bit, getLsbD_recompute_sta_kept pa pb _ (by omega) (by omega) (by omega), hdone, Bool.or_true]
  sta := SameSta.recompute (x := { x with busy := false }) hsta hpa
  stb := by
    refine SameStb.recompute (x := { x with busy := false }) (fun i _ => ?_) fun i hi _ => hpb i hi
    rw [hx]
    rfl
  derived := hp.derivedWith hb _

theorem Stopped.raise {u : UnitNo} {b : Bool} {except : List Nat} {s t : State} (h : Stopped u b except s t) (e : Effect) :
    Stopped u b except s (t.raise e) :=
  ⟨h.frame.congr rfl, h.unit, h.busy, h.done, h.sta, h.stb, h.derived.raise e⟩

/-- A pending SUFU shows, and ERR with it (R112, R117). -/
theorem DerivedWith.sufu_and_error {t : State} (h : DerivedWith true t) : bit t.stb 9 = true ∧ bit t.sta 0 = true := by
  have hsufu : bit t.stb 9 = true := h.sufu
  exact ⟨hsufu, h.err.2 (.inr ⟨9, by simp, hsufu⟩)⟩

/-- Settles O31: the first check of a data function ends it with DON and SUFU pending. -/
theorem detachedDataFunction : Obligations.DetachedDataFunction := by
  unfold Obligations.DetachedDataFunction
  intro f u ied iea go flags s hf hdue hfirst hdetached
  refine ⟨_, exec_dataRow ((isData_iff f).2 hf) hdue hfirst, ?_⟩
  rw [dataFunction_detached (by rw [unschedule_unit_self, hdetached])]
  have hstop : Stopped u true [1] s (endData DON SUFU (s.unschedule u)) :=
    stopped_endData rfl (fun _ _ => rfl) pendingOk_done_unsafe (by decide) (by simp) (by decide) (by simp)
  obtain ⟨hframe, hunit, hbusy, hdone, hsta, hstb, hderived⟩ := hstop.raise (.notAttached u)
  obtain ⟨hsufu, herr⟩ := hderived.sufu_and_error
  have heffects : ((endData DON SUFU (s.unschedule u)).raise (.notAttached u)).effects = s.effects ++ [.notAttached u] :=
    congrArg (· ++ [Effect.notAttached u]) (recompute_effects DON SUFU _)
  exact ⟨hbusy, hdone, hsufu, herr, heffects, hunit, hframe.others, hframe.stores, hframe.mem, hframe.regs,
    hframe.context, hframe.draws, hframe.reply, hsta, hstb, hderived⟩

/-- Settles O32: the second check ends a write with DON and WLE pending, and WLE raises ERR. -/
theorem writeLockStopsWrites : Obligations.WriteLockStopsWrites := by
  unfold Obligations.WriteLockStopsWrites
  intro f u ied iea go flags s hf hdue hfirst hattached henforced hlocked
  have hdata : Func.isData f = true := by rcases hf with rfl | ⟨rfl, -⟩ <;> rfl
  refine ⟨_, exec_dataRow hdata hdue hfirst, ?_⟩
  rw [dataFunction_locked (s := s.unschedule u) (moveOf_eq_write.2 hf) (by rw [unschedule_unit_self, hattached]) henforced
    (by rw [unschedule_unit_self, hlocked])]
  have hstop : Stopped u false [1, 8] s (endData (DON ||| WLE) 0 (s.unschedule u)) :=
    stopped_endData rfl (fun _ _ => rfl) pendingOk_done_locked (by decide) (by simp) (by decide) (by simp)
  obtain ⟨hframe, hunit, hbusy, hdone, hsta, hstb, hderived⟩ := hstop
  have hwle : bit (endData (DON ||| WLE) 0 (s.unschedule u)).sta 8 = true := by
    rw [endData, bit, getLsbD_recompute_sta_kept _ _ _ (by omega) (by omega) (by omega)]
    simp
  exact ⟨hbusy, hdone, hwle, hderived.err.2 (.inl ⟨8, by simp, hwle⟩), recompute_effects _ _ _, hunit,
    hframe.others, hframe.stores, hframe.mem, hframe.regs, hframe.context, hframe.draws, hframe.reply, hsta, hstb, hderived⟩

/-- A geometry flag after the address check: set before or its component bad (R65, R177). -/
theorem bit_endData_badAddress (x : State) {i : Nat} (hi : i = 5 ∨ i = 6 ∨ i = 7) :
    bit (endData DON SUFU (x.orSta (badGeometry x.da))).sta i = (bit x.sta i || (badGeometry x.da).getLsbD i) := by
  rw [endData, bit, getLsbD_recompute_sta_kept DON SUFU _ (by omega) (by omega) (by omega), orSta_sta, BitVec.getLsbD_or,
    getLsbD_DON, decide_eq_false (by omega), Bool.or_false]

/-- Settles O33: the third check ends a data function with DON and SUFU pending and the bad components flagged. -/
theorem badAddressAborts : Obligations.BadAddressAborts := by
  unfold Obligations.BadAddressAborts
  intro f u ied iea go flags s hf hwritable hdue hfirst hattached hda
  have hw : moveOf s f = .write → Writable (s.unschedule u) u := by
    rw [moveOf_eq_write, Writable, unschedule_unit_self]
    exact hwritable
  refine ⟨_, exec_dataRow ((isData_iff f).2 hf) hdue hfirst, ?_⟩
  rw [dataFunction_badAddress (by rw [unschedule_unit_self, hattached]) hw hda]
  have hflagged : SameSta s ((s.unschedule u).orSta (badGeometry s.da)) [1, 5, 6, 7] := fun i hi => by
    refine getLsbD_or_of_clear s.sta ?_
    simp only [List.mem_cons, List.not_mem_nil, or_false, not_or] at hi
    simp [getLsbD_badGeometry, hi]
  have hstop : Stopped u true [1, 5, 6, 7] s (endData DON SUFU ((s.unschedule u).orSta (badGeometry s.da))) :=
    stopped_endData rfl hflagged pendingOk_done_unsafe (by decide) (by simp; omega) (by decide) (by simp)
  obtain ⟨hframe, hunit, hbusy, hdone, hsta, hstb, hderived⟩ := hstop
  obtain ⟨hsufu, herr⟩ := hderived.sufu_and_error
  refine ⟨hbusy, hdone, ?_, ?_, ?_, hsufu, herr, recompute_effects _ _ _, hunit, hframe.others, hframe.stores,
    hframe.mem, hframe.regs, hframe.context, hframe.draws, hframe.reply, hsta, hstb, hderived⟩ <;>
    rw [bit_endData_badAddress _ (by omega), unschedule_sta, unschedule_da, getLsbD_badGeometry] <;>
    simp

end Sys2Proof.Machine

/-! The transfers of the data functions: which words each moves and how each ends (43_unit_state_machine.md R178 to R189). -/

namespace Sys2Proof.Machine

/-! ### Blocks of words -/

section
variable {m : Memory} {a k : Nat} {ws : List Word}

theorem readWord_writeWords_inside (h : m.wf) (hk : k < ws.length) :
    readWord (writeWords m a ws) (a + k) = ws.getD k unwritten := by
  rw [readWord_writeWords h, if_pos (by omega), Nat.add_sub_cancel_left]

/-- A copied block, zeros after it: its words are the source's. -/
theorem readWord_writeWords_copied (h : m.wf) (m' : Memory) (a' : Nat) {n : Nat} (pad : Nat) (hk : k < n) :
    readWord (writeWords m a (readWords m' a' n ++ List.replicate pad 0)) (a + k) = readWord m' (a' + k) := by
  rw [readWord_writeWords_inside h (by simp; omega), List.getD_append _ _ _ _ (by simpa using hk), readWords_getD,
    if_pos hk]

/-- A copied block, zeros after it: the words of the pad are zero. -/
theorem readWord_writeWords_pad (h : m.wf) (m' : Memory) (a' : Nat) {n pad : Nat} (hn : n ≤ k) (hk : k < n + pad) :
    readWord (writeWords m a (readWords m' a' n ++ List.replicate pad 0)) (a + k) = 0 := by
  rw [readWord_writeWords_inside h (by simp; omega), List.getD_append_right _ _ _ _ (by simpa using hn),
    readWords_length, List.getD_replicate _ (by omega)]

/-- A block write changes no word outside the block. -/
theorem mem_block_of_changed {b : Nat} (h : m.wf) (hb : readWord (writeWords m a ws) b ≠ readWord m b) :
    a ≤ b ∧ b < a + ws.length := by
  by_contra hn
  exact hb (readWord_writeWords_outside h ws (by omega))
end

/-! ### The words a transfer moves -/

section
variable (m : Move) (u : UnitNo) (s : State)

theorem reportClamps_mem : (reportClamps s).mem = s.mem := by rw [reportClamps_eq]
theorem reportClamps_ma : (reportClamps s).ma = s.ma := by rw [reportClamps_eq]
theorem reportClamps_da : (reportClamps s).da = s.da := by rw [reportClamps_eq]
theorem reportClamps_ioFault : (reportClamps s).ioFault = s.ioFault := by rw [reportClamps_eq]
theorem reportClamps_draws : (reportClamps s).draws = s.draws := by rw [reportClamps_eq]

/-- The clamps report EOP, not WCE (R180). -/
theorem reportClamps_wce : (reportClamps s).stb.getLsbD 4 = s.stb.getLsbD 4 := by
  rw [reportClamps_eq]
  refine getLsbD_or_of_clear s.stb ?_
  split <;> simp

/-- The words that a transfer moves are the `moved s` ones, and nothing after them touches memory, units, WCE or draws. -/
theorem transferred_moveWords :
    (transferred m u s).mem = (moveWords m u (moved s) (reportClamps s)).mem ∧
      (transferred m u s).units = (moveWords m u (moved s) (reportClamps s)).units ∧
      (transferred m u s).stb = (moveWords m u (moved s) (reportClamps s)).stb ∧
      (transferred m u s).draws = (moveWords m u (moved s) (reportClamps s)).draws := by
  rw [← transferCount_eq]
  exact ⟨rfl, rfl, rfl, rfl⟩

/-- The end of a transfer: the recompute with DON, and the report of a storage fault after it (R187, R188). -/
theorem transfer_eq_recompute :
    transfer m u s =
      { recompute DON 0 (transferred m u s) with
        effects := (transferred m u s).effects ++ (if s.ioFault then [.ioError u] else []) } := by
  rw [transfer_eq]
  split
  · rw [State.raise, recompute_effects]
  · rw [List.append_nil, ← recompute_effects DON 0]

theorem transfer_mem : (transfer m u s).mem = (transferred m u s).mem := by
  rw [transfer_eq_recompute]
  exact recompute_mem DON 0 _

theorem transfer_unit (v : UnitNo) : (transfer m u s).unit v = (transferred m u s).unit v := by
  rw [transfer_eq_recompute]
  exact recompute_unit DON 0 _ v

theorem transfer_draws : (transfer m u s).draws = (transferred m u s).draws := by
  rw [transfer_eq_recompute]
  exact recompute_draws DON 0 _

theorem transfer_wce : (transfer m u s).stb.getLsbD 4 = (transferred m u s).stb.getLsbD 4 := by
  rw [transfer_eq_recompute]
  refine (getLsbD_recompute_stb_kept DON 0 _ (by omega) (by omega) (by omega)).trans ?_
  simp
end

section
variable {m : Move} (u : UnitNo) (s : State)

/-- Only a write-check writes WCE (R184). -/
theorem moveWords_stb (hm : m ≠ .check) (n : Nat) : (moveWords m u n s).stb = s.stb := by
  cases m with
  | check => exact absurd rfl hm
  | nothing => rfl
  | read =>
    simp only [moveWords, moveRead]
    split <;> rfl
  | write =>
    simp only [moveWords, moveWrite]
    split <;> rfl

theorem transfer_wce_of_ne (hm : m ≠ .check) : (transfer m u s).stb.getLsbD 4 = s.stb.getLsbD 4 := by
  obtain ⟨-, -, hstb, -⟩ := transferred_moveWords m u s
  rw [transfer_wce, hstb, moveWords_stb u _ hm, reportClamps_wce]

theorem transfer_mem_of_ne (hm : m ≠ .read) : (transfer m u s).mem = s.mem := by
  rw [transfer_mem]
  exact (transferred_mem m u s).resolve_right fun h => hm h.1

theorem transfer_store_other {u v : UnitNo} (hv : v ≠ u) : ((transfer m u s).unit v).store = (s.unit v).store := by
  rw [transfer_unit, transferred_others m u s v hv]

theorem transfer_store_of_ne (hm : m ≠ .write) (v : UnitNo) : ((transfer m u s).unit v).store = (s.unit v).store := by
  by_cases hv : v = u
  · subst hv
    rw [transfer_unit]
    exact (transferred_store m v s).resolve_right fun h => hm h.1
  · exact transfer_store_other s hv

/-- A READ's words: the store's, unless a storage fault makes them free values (R181, R182). -/
theorem transfer_read :
    ∃ ws, ws.length = moved s ∧ (transfer .read u s).mem = writeWords s.mem s.ma.toNat ws ∧
      (s.ioFault = false → ws = readWords (s.unit u).store (offsetOf s.da) (moved s) ∧
        (transfer .read u s).draws = s.draws) := by
  obtain ⟨hmem, -, -, hdraws⟩ := transferred_moveWords .read u s
  obtain ⟨ws, hlen, hread, hwords⟩ := moveRead_eq u (moved s) (reportClamps s)
  rw [reportClamps_mem, reportClamps_ma] at hread
  rw [reportClamps_ioFault, reportClamps_unit, reportClamps_da, reportClamps_draws] at hwords
  exact ⟨ws, hlen, (transfer_mem .read u s).trans (hmem.trans hread), fun hfault =>
    ⟨(hwords hfault).1, (transfer_draws .read u s).trans (hdraws.trans (hwords hfault).2)⟩⟩

/-- A WRITE's words: memory's and zeros to the end of the last sector, unless a storage fault makes them free values (R181,
R183). -/
theorem transfer_write :
    ∃ ws, ws.length = moved s + padCount (moved s) ∧
      ((transfer .write u s).unit u).store = writeWords (s.unit u).store (offsetOf s.da) ws ∧
      (s.ioFault = false →
        ws = readWords s.mem s.ma.toNat (moved s) ++ List.replicate (padCount (moved s)) 0 ∧
          (transfer .write u s).draws = s.draws) := by
  obtain ⟨-, hunits, -, hdraws⟩ := transferred_moveWords .write u s
  obtain ⟨ws, hlen, -, hwrite, hwords⟩ := moveWrite_eq u (moved s) (reportClamps s)
  rw [reportClamps_unit, reportClamps_da] at hwrite
  rw [reportClamps_ioFault, reportClamps_mem, reportClamps_ma, reportClamps_draws] at hwords
  have hunit : (transfer .write u s).unit u = (moveWrite u (moved s) (reportClamps s)).unit u :=
    (transfer_unit .write u s u).trans (unit_congr hunits u)
  exact ⟨ws, hlen, (congrArg Drive.store hunit).trans hwrite, fun hfault =>
    ⟨(hwords hfault).1, (transfer_draws .write u s).trans (hdraws.trans (hwords hfault).2)⟩⟩

/-- A write-check keeps a WCE that is set, and without a storage fault sets it when the blocks differ (R181, R184). -/
theorem transfer_check :
    (s.stb.getLsbD 4 = true → (transfer .check u s).stb.getLsbD 4 = true) ∧
      (s.ioFault = false → (transfer .check u s).draws = s.draws ∧
        ((transfer .check u s).stb.getLsbD 4 = true ↔ s.stb.getLsbD 4 = true ∨
          readWords (s.unit u).store (offsetOf s.da) (moved s) ≠ readWords s.mem s.ma.toNat (moved s))) := by
  obtain ⟨-, -, hstb, hdraws⟩ := transferred_moveWords .check u s
  obtain ⟨-, -, hkept, hwords⟩ := moveCheck_eq u (moved s) (reportClamps s)
  rw [reportClamps_wce] at hkept
  rw [reportClamps_ioFault, reportClamps_wce, reportClamps_draws, reportClamps_unit, reportClamps_da, reportClamps_mem,
    reportClamps_ma] at hwords
  rw [transfer_wce, hstb, transfer_draws, hdraws]
  exact ⟨hkept, hwords⟩

/-- Without a data path no free value is drawn (R185). -/
theorem transfer_nothing_draws : (transfer .nothing u s).draws = s.draws := by
  obtain ⟨-, -, -, hdraws⟩ := transferred_moveWords .nothing u s
  exact (transfer_draws .nothing u s).trans (hdraws.trans (reportClamps_draws s))
end

/-! ### How a transfer ends -/

/-- The end of a transfer, whatever the words it moves are (R179, R180, R186, R187, R188). -/
theorem transferred_transfer (m : Move) (u : UnitNo) (s : State) :
    Transferred s u (transfer m u (s.unschedule u)) := by
  rw [transfer_eq_recompute]
  exact
    { busy := recompute_busy DON 0 _
      wc := (recompute_wc DON 0 _).trans (transferred_wc m u (s.unschedule u))
      ma := (recompute_ma DON 0 _).trans (transferred_ma m u (s.unschedule u))
      da := (recompute_da DON 0 _).trans (transferred_da m u (s.unschedule u))
      unit := by
        have hunit := (recompute_unit DON 0 _ u).trans (transferred_unit m u (s.unschedule u))
        rw [unschedule_unit_self] at hunit
        change FiredUnit s (recompute DON 0 _) u
        rw [FiredUnit, hunit]
        exact ⟨rfl, rfl, rfl, rfl, rfl⟩
      others := fun v hv => by
        have hunit := (recompute_unit DON 0 _ v).trans (transferred_others m u (s.unschedule u) v hv)
        rw [unschedule_unit_other s hv] at hunit
        change SameUnit s (recompute DON 0 _) v
        rw [SameUnit, hunit]
        exact ⟨rfl, rfl, rfl, rfl, rfl⟩
      context := by
        have hcontext := sameContext_transfer m u (s.unschedule u)
        rw [transfer_eq_recompute] at hcontext
        exact hcontext
      reply := (recompute_reply DON 0 _).trans (transferred_reply m u (s.unschedule u))
      effects := congrArg (· ++ _) (transferred_effects m u (s.unschedule u))
      done := by
        refine (getLsbD_recompute_sta_kept DON 0 _ (by omega) (by omega) (by omega)).trans ?_
        simp
      sta := SameSta.recompute (fun i _ => by rw [transferred_sta]; rfl) (by simp)
      eop := by
        refine (getLsbD_recompute_stb_kept DON 0 _ (by omega) (by omega) (by omega)).trans ((Bool.or_false _).trans ?_)
        exact transferred_stb m u (s.unschedule u) 7 (by omega)
      stb := SameStb.recompute (fun i hi => by
        simp only [List.mem_cons, List.not_mem_nil, or_false, not_or] at hi
        rw [bit, transferred_stb m u _ i (by omega)]
        simp [hi]) (by simp)
      derived := DerivedWith.congr (pendingOk_done.derivedWith rfl (transferred m u (s.unschedule u))) rfl rfl rfl rfl }

section
variable {f : Func} {u : UnitNo} {ied iea go : Bool} {flags : BitVec 9} {s : State}

/-- A data function whose checks pass transfers (R175, R176, R177). -/
theorem exec_transfer (hf : Func.isData f = true) (hready : TransferReady s u)
    (hw : moveOf s f = .write → Writable s u) :
    exec (functionRow f u ied iea go flags) s = .next (transfer (moveOf s f) u (s.unschedule u)) := by
  obtain ⟨hdue, hfirst, hattached, hda⟩ := hready
  have hw' : moveOf s f = .write → Writable (s.unschedule u) u := by
    rw [Writable, unschedule_unit_self]
    exact hw
  rw [exec_dataRow hf hdue hfirst, dataFunction_transfer (by rw [unschedule_unit_self, hattached]) hw' hda]

end

section
variable {m : Move} {u : UnitNo} {s : State}

theorem sameMem_transfer (hm : m ≠ .read) : SameMem s (transfer m u (s.unschedule u)) :=
  fun a => congrArg (readWord · a) (transfer_mem_of_ne u (s.unschedule u) hm)

theorem sameStore_transfer_other {v : UnitNo} (hv : v ≠ u) : SameStore s (transfer m u (s.unschedule u)) v := by
  rw [SameStore, transfer_store_other _ hv, unschedule_unit_other s hv]
  exact fun _ => rfl

theorem sameStore_transfer (hm : m ≠ .write) (v : UnitNo) : SameStore s (transfer m u (s.unschedule u)) v := by
  rw [SameStore, transfer_store_of_ne u _ hm]
  exact (completionFrame_unschedule u s).stores v
end

/-! ### The statements on transfers -/

/-- Settles O34: outside the block written at `ma` memory is as before, inside it holds the store's words. -/
theorem readFillsMemoryFromTheStore : Obligations.ReadFillsMemoryFromTheStore := by
  unfold Obligations.ReadFillsMemoryFromTheStore
  intro f u ied iea go flags s hf hready hwf
  have hdata : Func.isData f = true := by rcases hf with rfl | ⟨rfl, -⟩ <;> rfl
  have hmove : moveOf s f = .read := moveOf_eq_read.2 hf
  refine ⟨_, exec_transfer hdata hready (by simp [hmove]), ?_⟩
  rw [hmove]
  obtain ⟨ws, hlen, hmem, hwords⟩ := transfer_read u (s.unschedule u)
  refine ⟨transferred_transfer .read u s, transfer_wce_of_ne u _ (by decide), sameStore_transfer (by decide),
    fun a ha => ?_, fun hfault => ?_⟩
  · rw [hmem]
    exact readWord_writeWords_outside hwf ws (hlen ▸ ha)
  · obtain ⟨hws, hdraws⟩ := hwords hfault
    refine ⟨hdraws, fun k hk => ?_⟩
    rw [hmem, hws, unschedule_unit_self, ← List.append_nil (readWords _ _ _)]
    exact readWord_writeWords_copied hwf (s.unit u).store (offsetOf s.da) 0 hk

/-- Settles O35: outside the sectors written at the disk address the store is as before, inside them it holds memory's words
and then zeros. -/
theorem writeFillsTheStoreFromMemory : Obligations.WriteFillsTheStoreFromMemory := by
  unfold Obligations.WriteFillsTheStoreFromMemory
  intro f u ied iea go flags s hf hready hwritable hwf
  have hdata : Func.isData f = true := by rcases hf with rfl | ⟨rfl, -⟩ <;> rfl
  have hmove : moveOf s f = .write := moveOf_eq_write.2 hf
  refine ⟨_, exec_transfer hdata hready fun _ => hwritable, ?_⟩
  rw [hmove]
  obtain ⟨ws, hlen, hstore, hwords⟩ := transfer_write u (s.unschedule u)
  rw [unschedule_unit_self] at hstore
  refine ⟨transferred_transfer .write u s, transfer_wce_of_ne u _ (by decide), sameMem_transfer (by decide),
    fun v hv => sameStore_transfer_other hv, fun a ha => ?_, fun hfault => ?_⟩
  · rw [hstore]
    rw [add_padCount] at hlen
    exact readWord_writeWords_outside hwf ws (hlen ▸ ha)
  · obtain ⟨hws, hdraws⟩ := hwords hfault
    rw [hstore, hws, ← add_padCount]
    exact ⟨hdraws, fun k hk => readWord_writeWords_copied hwf s.mem s.ma.toNat _ hk,
      fun k hn hk => readWord_writeWords_pad hwf s.mem s.ma.toNat hn hk⟩

/-- Settles O36: the two blocks differ exactly when some word does. -/
theorem writeCheckComparesEveryWord : Obligations.WriteCheckComparesEveryWord := by
  unfold Obligations.WriteCheckComparesEveryWord
  intro u ied iea go flags s hready
  have hrun : exec (.funcWrchk u ied iea go flags) s = .next (transfer .check u (s.unschedule u)) :=
    exec_transfer (f := .wrchk) rfl hready nofun
  obtain ⟨hkept, hwords⟩ := transfer_check u (s.unschedule u)
  refine ⟨_, hrun, transferred_transfer .check u s, sameMem_transfer (by decide), sameStore_transfer (by decide), hkept,
    fun hfault => ?_⟩
  obtain ⟨hdraws, hwce⟩ := hwords hfault
  refine ⟨hdraws, hwce.trans (or_congr Iff.rfl ?_)⟩
  rw [ne_eq, readWords_eq_iff, unschedule_unit_self]
  push Not
  rfl

/-- Settles O37: with no data path the transfer moves nothing and draws nothing. -/
theorem allFunctionsWithoutData : Obligations.AllFunctionsWithoutData := by
  unfold Obligations.AllFunctionsWithoutData
  intro f u ied iea go flags s hf hmode hready
  have hdata : Func.isData f = true := by rcases hf with rfl | rfl <;> rfl
  have hmove : moveOf s f = .nothing := by rcases hf with rfl | rfl <;> simp [moveOf, allMove, hmode]
  refine ⟨_, exec_transfer hdata hready (by simp [hmove]), ?_⟩
  rw [hmove]
  exact ⟨transferred_transfer .nothing u s, transfer_wce_of_ne u _ (by decide), sameMem_transfer (by decide),
    sameStore_transfer (by decide), transfer_nothing_draws u _⟩

/-- State `t` with the registers of `s` put back and a write-check of unit `u` due (R189). -/
def recheck (u : UnitNo) (s t : State) : State :=
  { t with da := s.da, ma := s.ma, wc := s.wc }.setUnit u { t.unit u with func := ⟨.wrchk, false⟩, ev := some 0 }

theorem recheck_unit (u : UnitNo) (s t : State) :
    (recheck u s t).unit u = { t.unit u with func := ⟨.wrchk, false⟩, ev := some 0 } :=
  unit_setUnit_self _ u _

/-- The write-check asks for the words that the transfer moved. -/
theorem moved_recheck {u : UnitNo} {s t : State} (h : Transferred s u t) : moved (recheck u s t) = moved s := by
  obtain ⟨hcfg, -⟩ := h.context
  exact congrArg (fun cfg => moved { s with cfg := cfg }) hcfg

theorem transferReady_recheck {u : UnitNo} {s t : State} (hready : TransferReady s u) (h : Transferred s u t) :
    TransferReady (recheck u s t) u := by
  obtain ⟨-, -, hattached, hda⟩ := hready
  obtain ⟨-, -, hkept, -⟩ := h.unit
  rw [TransferReady, recheck_unit]
  exact ⟨rfl, rfl, hkept.trans hattached, hda⟩

/-- Settles O38: the read leaves memory agreeing with the store on the block, so the write-check finds no word that differs. -/
theorem writeCheckAfterReadAgrees : Obligations.WriteCheckAfterReadAgrees := by
  unfold Obligations.WriteCheckAfterReadAgrees
  intro u ied iea go flags s hready hwf hfault
  obtain ⟨t, hrun, hend, hwce, hstores, -, hwords⟩ :=
    readFillsMemoryFromTheStore .read u ied iea go flags s (.inl rfl) hready hwf
  obtain ⟨q, hcheck, -, -, -, -, hcompare⟩ :=
    writeCheckComparesEveryWord u ied iea go flags (recheck u s t) (transferReady_recheck hready hend)
  obtain ⟨-, -, hdraw, -⟩ := hend.context
  obtain ⟨-, hiff⟩ := hcompare (hdraw.trans hfault)
  refine ⟨t, q, hrun, hcheck, ?_⟩
  rw [← hwce, Bool.eq_iff_iff, hiff, or_iff_left]
  · rfl
  · rintro ⟨k, hk, hne⟩
    rw [moved_recheck hend] at hk
    rw [recheck_unit] at hne
    obtain ⟨-, hread⟩ := hwords hfault
    exact hne ((hstores u _).trans (hread k hk).symm)

end Sys2Proof.Machine

/-! What may change a word of system memory or of a store (20_memory.md R60 to R62, 43_unit_state_machine.md R189). -/

namespace Sys2Proof.Machine

/-! ### Commands and the host's other calls -/

theorem goCheck_words (s : State) : (goCheck s).mem = s.mem ∧ ∀ u, ((goCheck s).unit u).store = (s.unit u).store := by
  rcases goCheck_cases s with ⟨-, -, h⟩ | ⟨-, h⟩ <;> rw [h]
  · exact ⟨startUnit_mem _ _ s, startUnit_store _ _ s⟩
  · exact ⟨rfl, fun _ => rfl⟩

theorem LoadResult.words {c : BitVec 7} {v : Word} {s x : State} (h : LoadResult c v s x) :
    x.mem = s.mem ∧ ∀ u, (x.unit u).store = (s.unit u).store := by
  cases h with
  | statusA _ _ _ n _ => exact goCheck_words { s with sta := n }
  | _ => exact ⟨rfl, fun _ => rfl⟩

/-- No command changes a word of memory or of a store (R189). -/
theorem command_words {c : BitVec 7} {v : Word} {s t : State} (h : exec (decodeCommand c v) s = .next t) :
    t.mem = s.mem ∧ ∀ u, (t.unit u).store = (s.unit u).store := by
  rcases command_cases h with ⟨w, k, x, rfl, hx⟩ | ⟨-, -, rfl⟩
  · simpa using hx.words
  · exact ⟨rfl, fun _ => rfl⟩

/-- Of the host's other calls only its own write changes memory (R61, R228). -/
theorem hostCall_mem {call : HostCall} {s t : State} (hc : ∀ u, call ≠ .eventFired u) (h : hostCall call s = .next t) :
    t.mem = s.mem ∨ ∃ a v, call = .poke a v ∧ t.mem = writeWord s.mem a v := by
  cases call with
  | command c v => exact .inl (command_words h).1
  | eventFired u => exact absurd rfl (hc u)
  | attach u i =>
    rcases attachUnit_next h with rfl | ⟨-, -, rfl⟩
    · exact .inl rfl
    · exact .inl (recompute_mem 0 0 _)
  | poke a v =>
    obtain ⟨-, rfl⟩ := pokeMemory_next h
    exact .inr ⟨a, v, rfl, rfl⟩
  | reset | detach u | setWriteLock u b =>
    cases h
    exact .inl (recompute_mem 0 0 _)
  | tick | ready | storageFault b =>
    cases h
    exact .inl rfl

/-- Of the host's other calls only an attach changes a store, that of its unit (R62, R220; log 18). -/
theorem hostCall_store {call : HostCall} {s t : State} (hc : ∀ u, call ≠ .eventFired u) (h : hostCall call s = .next t)
    (u : UnitNo) : (t.unit u).store = (s.unit u).store ∨ ∃ i, call = .attach u i := by
  cases call with
  | command c v => exact .inl ((command_words h).2 u)
  | eventFired v => exact absurd rfl (hc v)
  | attach v i =>
    by_cases hv : v = u
    · exact .inr ⟨i, by rw [hv]⟩
    · rcases attachUnit_next h with rfl | ⟨-, -, rfl⟩
      · exact .inl rfl
      · exact .inl (by rw [answer_unit, recompute_unit, unit_setUnit_other _ _ hv])
  | poke a v =>
    obtain ⟨-, rfl⟩ := pokeMemory_next h
    exact .inl rfl
  | tick =>
    cases h
    exact .inl (by rw [advanceTick_unit])
  | reset =>
    cases h
    exact .inl (by rw [resetController_unit])
  | detach v =>
    cases h
    exact .inl (by rw [detachUnit, answer_unit, recompute_unit, setUnit_store (by rfl)])
  | setWriteLock v b =>
    cases h
    exact .inl (by rw [setWriteLock, recompute_unit, setUnit_store (by rfl)])
  | ready | storageFault b =>
    cases h
    exact .inl rfl

/-! ### Completions -/

/-- A data function changes memory only as a read that transfers: a block of `moved s` words at `ma` (R182). -/
theorem dataFunction_mem (m : Move) (u : UnitNo) (s : State) :
    (dataFunction m u s).mem = s.mem ∨
      m = .read ∧ (s.unit u).attached = true ∧ validAddress s.da ∧
        ∃ ws, ws.length = moved s ∧ (dataFunction m u s).mem = writeWords s.mem s.ma.toNat ws := by
  rcases dataFunction_cases m u s with ⟨-, e⟩ | ⟨-, -, -, -, e⟩ | ⟨-, -, e⟩ | ⟨hattached, -, hda, e⟩ <;> rw [e]
  · exact .inl (recompute_mem DON SUFU _)
  · exact .inl (recompute_mem (DON ||| WLE) 0 _)
  · exact .inl (recompute_mem DON SUFU _)
  · rw [transfer_mem]
    exact (transferred_mem m u s).imp_right fun ⟨hm, hws⟩ => ⟨hm, hattached, hda, hws⟩

/-- A data function changes a store only as a write of that unit that transfers: whole sectors at the disk address (R183). -/
theorem dataFunction_store (m : Move) (u v : UnitNo) (s : State) :
    ((dataFunction m u s).unit v).store = (s.unit v).store ∨
      v = u ∧ m = .write ∧ (s.unit u).attached = true ∧ Writable s u ∧ validAddress s.da ∧
        ∃ ws, ws.length = (moved s + 255) / 256 * 256 ∧
          ((dataFunction m u s).unit v).store = writeWords (s.unit u).store (offsetOf s.da) ws := by
  rcases dataFunction_cases m u s with ⟨-, e⟩ | ⟨-, -, -, -, e⟩ | ⟨-, -, e⟩ | ⟨hattached, hw, hda, e⟩ <;> rw [e]
  · exact .inl (congrArg Drive.store (recompute_unit DON SUFU _ v))
  · exact .inl (congrArg Drive.store (recompute_unit (DON ||| WLE) 0 _ v))
  · exact .inl (congrArg Drive.store (recompute_unit DON SUFU _ v))
  · by_cases hv : v = u
    · subst hv
      rw [transfer_unit]
      exact (transferred_store m v s).imp_right fun ⟨hm, hws⟩ => ⟨rfl, hm, hattached, hw hm, hda, hws⟩
    · exact .inl (transfer_store_other s hv)

section
variable {f : Func} {u : UnitNo} {s t : State}

/-- A completion changes memory only as a READ, or RDALL as plain, that transfers. -/
theorem completion_mem (h : completion f u s = .next t) :
    t.mem = s.mem ∨
      (s.unit u).func.second = false ∧ (f = .read ∨ f = .rdall ∧ s.cfg.allMode = .asPlain) ∧
        (s.unit u).attached = true ∧ validAddress s.da ∧
        ∃ ws, ws.length = moved s ∧ t.mem = writeWords s.mem s.ma.toNat ws := by
  rcases completion_cases h with ⟨-, -, rfl⟩ | ⟨hfirst, -, rfl⟩ | ⟨-, c, -, rfl⟩ | ⟨-, -, rfl⟩ | ⟨-, -, rfl⟩
  · exact .inl rfl
  · exact (dataFunction_mem (moveOf s f) u s).imp_right fun ⟨hm, hrest⟩ => ⟨hfirst, moveOf_eq_read.1 hm, hrest⟩
  · exact .inl (recompute_mem 0 0 _)
  · exact .inl (recompute_mem 0 (ATTN u) s)
  · exact .inl rfl

/-- A completion changes a store only as a WRITE, or WRALL as plain, of that unit that transfers. -/
theorem completion_store (h : completion f u s = .next t) (v : UnitNo) :
    (t.unit v).store = (s.unit v).store ∨
      v = u ∧ (s.unit u).func.second = false ∧ (f = .write ∨ f = .wrall ∧ s.cfg.allMode = .asPlain) ∧
        (s.unit u).attached = true ∧ Writable s u ∧ validAddress s.da ∧
        ∃ ws, ws.length = (moved s + 255) / 256 * 256 ∧
          (t.unit v).store = writeWords (s.unit u).store (offsetOf s.da) ws := by
  rcases completion_cases h with ⟨-, -, rfl⟩ | ⟨hfirst, -, rfl⟩ | ⟨-, c, -, rfl⟩ | ⟨-, -, rfl⟩ | ⟨-, -, rfl⟩
  · exact .inl rfl
  · exact (dataFunction_store (moveOf s f) u v s).imp_right fun ⟨hv, hm, hrest⟩ =>
      ⟨hv, hfirst, moveOf_eq_write.1 hm, hrest⟩
  · refine .inl ?_
    rw [seekPhase1, recompute_unit]
    exact setUnit_store (s := { s with busy := false }) (by rfl) v
  · exact .inl (congrArg Drive.store (recompute_unit 0 (ATTN u) s v))
  · exact .inl rfl
end

/-! ### Every step -/

/-- Settles O56: of the cases of `step_cases` only the host's write and a read's completion change memory. -/
theorem memoryChangesOnlyByReadsAndTheHost : Obligations.MemoryChangesOnlyByReadsAndTheHost := by
  unfold Obligations.MemoryChangesOnlyByReadsAndTheHost
  intro s t a hwf hstep hne
  rcases step_cases hstep with ⟨rfl, -, -⟩ | ⟨u, calls, n, hdue, hrun⟩ | ⟨call, rest, hhost, -, hother, hrun⟩ |
    ⟨u, rest, -, -, rfl⟩
  · exact absurd rfl hne
  · rcases completion_mem hrun with hsame | ⟨hfirst, hf, hattached, hda, ws, hlen, hmem⟩
    · exact absurd (congrArg (readWord · a) hsame) hne
    · rw [unschedule_unit_self] at hfirst hattached
      rw [hmem] at hne
      exact .inr ⟨u, ⟨hdue, hfirst, hattached, hda⟩, hf, hlen ▸ mem_block_of_changed hwf hne⟩
  · rcases hostCall_mem hother hrun with hsame | ⟨b, v, rfl, hmem⟩
    · exact absurd (congrArg (readWord · a) hsame) hne
    · refine .inl ⟨v, rest, ?_⟩
      by_contra hn
      have hb : a ≠ b := by
        rintro rfl
        exact hn hhost
      rw [hmem] at hne
      exact hne (readWord_writeWord_other hwf hb)
  · exact absurd rfl hne

/-- Settles O57: of the cases of `step_cases` only the unit's attach and its write's completion change its store. -/
theorem storesChangeOnlyByWritesAndAttach : Obligations.StoresChangeOnlyByWritesAndAttach := by
  unfold Obligations.StoresChangeOnlyByWritesAndAttach
  intro s t u a hwf hstep hne
  rcases step_cases hstep with ⟨rfl, -, -⟩ | ⟨v, calls, n, hdue, hrun⟩ | ⟨call, rest, hhost, -, hother, hrun⟩ |
    ⟨v, rest, -, -, rfl⟩
  · exact absurd rfl hne
  · rcases completion_store hrun u with hsame | ⟨rfl, hfirst, hf, hattached, hw, hda, ws, hlen, hstore⟩
    · have hfired : (({ s with host := calls, draws := n }.unschedule v).unit u).store = (s.unit u).store :=
        setUnit_store (s := { s with host := calls, draws := n }) (by rfl) u
      exact absurd (congrArg (readWord · a) (hsame.trans hfired)) hne
    · rw [Writable, unschedule_unit_self] at hw
      rw [unschedule_unit_self] at hfirst hattached hstore
      rw [hstore] at hne
      exact .inr ⟨⟨hdue, hfirst, hattached, hda⟩, hw, hf, hlen ▸ mem_block_of_changed hwf hne⟩
  · rcases hostCall_store hother hrun u with hsame | ⟨i, rfl⟩
    · exact absurd (congrArg (readWord · a) hsame) hne
    · exact .inl ⟨i, rest, hhost⟩
  · exact absurd rfl hne

end Sys2Proof.Machine

/-! Ticks, ties and the coming due of events (44_timing.md R210 to R215; 70_reset_and_hazards.md R265). -/

namespace Sys2Proof.Machine

/-! ### Events that come due -/

/-- Every event that is due in `t` was due in `s` (R214). -/
def NoNewDue (s t : State) : Prop := ∀ u, (t.unit u).ev = some 0 → (s.unit u).ev = some 0

theorem NoNewDue.of_ev {s t : State} (h : ∀ u, (t.unit u).ev = (s.unit u).ev) : NoNewDue s t :=
  fun u hdue => (h u).symm.trans hdue

theorem NoNewDue.refl (s : State) : NoNewDue s s := .of_ev fun _ => rfl

theorem NoNewDue.trans {s x t : State} (h : NoNewDue s x) (k : NoNewDue x t) : NoNewDue s t :=
  fun u hdue => h u (k u hdue)

theorem NoNewDue.answer {s t : State} (h : NoNewDue s t) (r : Reply) : NoNewDue s (t.answer r) := h

theorem noNewDue_recompute (pa pb : Word) (s : State) : NoNewDue s (recompute pa pb s) :=
  .of_ev fun u => by rw [recompute_unit]

/-- A new record makes no event due that was not, if its own is not due or was due before. -/
theorem noNewDue_setUnit {s : State} {u : UnitNo} {d : Drive} (h : d.ev = some 0 → (s.unit u).ev = some 0) :
    NoNewDue s (s.setUnit u d) := by
  intro v hdue
  rw [unit_setUnit] at hdue
  split at hdue
  · rename_i hv
    exact hv ▸ h hdue
  · exact hdue

/-- A new record with the event of the old one, and a recompute, make no event due. -/
theorem noNewDue_recompute_setUnit {s : State} {u : UnitNo} {d : Drive} (h : d.ev = (s.unit u).ev) :
    NoNewDue s (recompute 0 0 (s.setUnit u d)) :=
  (noNewDue_setUnit fun hdue => h.symm.trans hdue).trans (noNewDue_recompute 0 0 _)

theorem noNewDue_unschedule (u : UnitNo) (s : State) : NoNewDue s (s.unschedule u) :=
  noNewDue_setUnit (by simp)

/-! ### What schedules an event gives it a tick at least -/

theorem goDelay_ne_zero {s : State} (hcfg : s.cfg.wf) (u : UnitNo) (f : Func) : goDelay s u f ≠ 0 := by
  obtain ⟨-, -, -, -, hmin⟩ := hcfg
  unfold goDelay
  split <;> omega

theorem seekDelay_ne_zero {cfg : Config} (hcfg : cfg.wf) (c c0 : Nat) : seekDelay cfg c c0 ≠ 0 := by
  obtain ⟨-, -, -, -, hmin⟩ := hcfg
  unfold seekDelay
  omega

theorem noNewDue_goCheck {s : State} (hcfg : s.cfg.wf) : NoNewDue s (goCheck s) := by
  rcases goCheck_cases s with ⟨-, -, h⟩ | ⟨-, h⟩ <;> rw [h]
  · intro v hdue
    rw [startUnit_unit] at hdue
    split at hdue
    · exact absurd (Option.some.inj hdue) (goDelay_ne_zero hcfg _ _)
    · exact hdue
  · exact .refl s

theorem noNewDue_seekPhase1 {s : State} (hcfg : s.cfg.wf) (u : UnitNo) (c : BitVec 8) :
    NoNewDue s (seekPhase1 u c s) :=
  NoNewDue.trans
    (noNewDue_setUnit (s := { s with busy := false }) fun hdue =>
      absurd (Option.some.inj hdue) (seekDelay_ne_zero hcfg _ _))
    (noNewDue_recompute 0 0 _)

/-! ### Commands, completions and the host's other calls -/

theorem LoadResult.noNewDue {c : BitVec 7} {v : Word} {s x : State} (h : LoadResult c v s x) (hcfg : s.cfg.wf) :
    NoNewDue s x := by
  cases h with
  | statusA _ _ _ n _ => exact noNewDue_goCheck (s := { s with sta := n }) hcfg
  | _ => exact .of_ev fun _ => rfl

theorem command_noNewDue {c : BitVec 7} {v : Word} {s t : State} (h : exec (decodeCommand c v) s = .next t)
    (hcfg : s.cfg.wf) : NoNewDue s t := by
  rcases command_cases h with ⟨w, k, x, rfl, hx⟩ | ⟨-, -, rfl⟩
  · exact (hx.noNewDue hcfg).trans (.of_ev fun u => by rw [endCommand_unit])
  · exact .of_ev fun _ => rfl

/-- No completion makes an event due: a seek's settling waits a tick at least (R211, R212). -/
theorem completion_noNewDue {f : Func} {u : UnitNo} {s t : State} (h : completion f u s = .next t)
    (hcfg : s.cfg.wf) : NoNewDue s t := by
  rcases completion_cases h with ⟨-, -, rfl⟩ | ⟨-, -, rfl⟩ | ⟨-, c, -, rfl⟩ | ⟨-, -, rfl⟩ | ⟨-, -, rfl⟩
  · exact .of_ev fun _ => rfl
  · refine .of_ev fun v => ?_
    obtain ⟨store, hunit⟩ := dataFunction_unit (moveOf s f) u v s
    rw [hunit]
  · exact noNewDue_seekPhase1 hcfg u c
  · exact noNewDue_recompute 0 (ATTN u) s
  · exact .of_ev fun _ => rfl

/-- Of the host's other calls only a tick makes an event due (R214). -/
theorem hostCall_noNewDue {call : HostCall} {s t : State} (hc : ∀ u, call ≠ .eventFired u) (htick : call ≠ .tick)
    (h : hostCall call s = .next t) (hcfg : s.cfg.wf) : NoNewDue s t := by
  cases call with
  | command c v => exact command_noNewDue h hcfg
  | eventFired u => exact absurd rfl (hc u)
  | tick => exact absurd rfl htick
  | reset =>
    cases h
    intro u hdue
    rw [resetController_unit] at hdue
    cases hdue
  | attach u i =>
    rcases attachUnit_next h with rfl | ⟨-, -, rfl⟩
    · exact .of_ev fun _ => rfl
    · exact .answer (noNewDue_recompute_setUnit (by rfl)) _
  | detach u =>
    cases h
    rw [detachUnit]
    exact .answer (noNewDue_recompute_setUnit (by rfl)) _
  | setWriteLock u b =>
    cases h
    rw [setWriteLock]
    exact noNewDue_recompute_setUnit (by rfl)
  | poke a v =>
    obtain ⟨-, rfl⟩ := pokeMemory_next h
    exact .of_ev fun _ => rfl
  | ready | storageFault b =>
    cases h
    exact .of_ev fun _ => rfl

/-! ### A tick -/

theorem advanceTick_ev_of_succ {s : State} {u : UnitNo} {d : Nat} (h : (s.unit u).ev = some (d + 1)) :
    ((advanceTick s).unit u).ev = some d := by
  simp [advanceTick_unit, h]

theorem advanceTick_ev_of_none {s : State} {u : UnitNo} (h : (s.unit u).ev = none) :
    ((advanceTick s).unit u).ev = none := by
  simp [advanceTick_unit, h]

/-- With nothing due before it, a tick makes due the events that had one tick left (R214). -/
theorem ev_eq_one_of_advanceTick_due {s : State} {u : UnitNo} (hnot : (s.unit u).ev ≠ some 0)
    (hdue : ((advanceTick s).unit u).ev = some 0) : (s.unit u).ev = some 1 := by
  cases he : (s.unit u).ev with
  | none => simp [advanceTick_ev_of_none he] at hdue
  | some n =>
    cases n with
    | zero => exact absurd he hnot
    | succ d =>
      rw [advanceTick_ev_of_succ he] at hdue
      rw [Option.some.inj hdue]

/-- Settles O59: of the cases of `step_cases` only a tick makes an event due; the others keep `NoNewDue`. -/
theorem eventsComeDueOnlyByTicks : Obligations.EventsComeDueOnlyByTicks := by
  unfold Obligations.EventsComeDueOnlyByTicks
  intro s t u hcfg hstep hdue
  rcases step_cases hstep with ⟨rfl, -, -⟩ | ⟨v, calls, n, -, hrun⟩ | ⟨call, rest, hhost, hwait, hother, hrun⟩ |
    ⟨v, rest, -, -, rfl⟩
  · exact .inl hdue
  · exact .inl (((noNewDue_unschedule v { s with host := calls, draws := n }).trans
      (completion_noNewDue hrun hcfg)) u hdue)
  · by_cases htick : call = .tick
    · subst htick
      cases hrun
      have hnone : s.nothingDue := hwait rfl
      exact .inr ⟨hnone, ev_eq_one_of_advanceTick_due (s := { s with host := rest }) (hnone u) hdue, rest, hhost⟩
    · exact .inl (hostCall_noNewDue hother htick hrun hcfg u hdue)
  · exact .inl hdue

/-- Settles O44: the tick is the next step by `step_call`, and `advanceTick` touches the events alone. -/
theorem tickAdvancesEveryEvent : Obligations.TickAdvancesEveryEvent := by
  unfold Obligations.TickAdvancesEveryEvent
  intro s rest hhost hnone
  refine ⟨advanceTick { s with host := rest }, step_call hhost fun _ => hnone, fun u => ?_, rfl⟩
  have hunit := advanceTick_unit { s with host := rest } u
  refine ⟨fun d => advanceTick_ev_of_succ, advanceTick_ev_of_none, ?_⟩
  rw [SameStore, hunit]
  exact ⟨rfl, rfl, rfl, rfl, fun _ => rfl⟩

/-! ### Ties -/

/-- Of several due completions that of one due unit comes first, and the choice draws a free value (R215; log 5). -/
theorem dueMove_of_tie {s : State} {u v : UnitNo} (hne : u ≠ v) (hu : (s.unit u).ev = some 0)
    (hv : (s.unit v).ev = some 0) :
    ∃ w, (s.unit w).ev = some 0 ∧ dueMove s = some (.eventFired w, s.drawn 1) := by
  have hmu := (mem_dueUnits s u).2 hu
  have hmv := (mem_dueUnits s v).2 hv
  unfold dueMove
  match hdue : s.dueUnits with
  | [] => simp [hdue] at hmu
  | [x] =>
    rw [hdue, List.mem_singleton] at hmu hmv
    exact absurd (hmu.trans hmv.symm) hne
  | x :: y :: us => exact ⟨_, (mem_dueUnits s _).1 (hdue ▸ tieUnit_mem s.draws x (y :: us)), rfl⟩

/-- Settles O6: the tie's move is the next one by `nextMove_of_dueMove`, and it runs the unit's function row. -/
theorem tiedCompletionsRunInSomeOrder : Obligations.TiedCompletionsRunInSomeOrder := by
  unfold Obligations.TiedCompletionsRunInSomeOrder
  intro s u v hwaits hne hu hv
  obtain ⟨w, hw, hmove⟩ := dueMove_of_tie hne hu hv
  refine ⟨w, hw, fun ied iea go flags => ?_⟩
  rw [step, nextMove_of_dueMove hwaits hmove]
  exact exec_completionOf w ied iea go flags (s.drawn 1) (s.drawn 1)

end Sys2Proof.Machine

/-! The host's attach, detach, write lock and `ready` calls, and a completion call that comes too early
(45_host_lifecycle.md R220 to R225). -/

namespace Sys2Proof.Machine

/-! ### A call that gives one unit a new record -/

/-- A call of the host took itself off the list, gave unit `u` the record `d` and recomputed. Of the answer this says
nothing. -/
structure RecordReplaced (rest : List HostCall) (u : UnitNo) (d : Drive) (s t : State) : Prop where
  record : t.unit u = d
  others : ∀ v, v ≠ u → t.unit v = s.unit v
  mem : SameMem s t
  regs : SameRegs s t
  busy : t.busy = s.busy
  took : TookCall rest s t
  sta : SameSta s t []
  stb : SameStb s t []
  derived : Derived t

section
variable {rest : List HostCall} {u : UnitNo} {d : Drive} {s t : State}

theorem recordReplaced_recompute (rest : List HostCall) (u : UnitNo) (d : Drive) (s : State) :
    RecordReplaced rest u d s (recompute 0 0 ({ s with host := rest }.setUnit u d)) where
  record := by rw [recompute_unit, unit_setUnit_self]
  others v hv := by
    rw [recompute_unit, unit_setUnit_other _ d (Ne.symm hv)]
    rfl
  mem := by simp [SameMem]
  regs := by simp [SameRegs]
  busy := by simp
  took := by simp [TookCall]
  sta := SameSta.recompute (fun _ _ => rfl) (by simp)
  stb := SameStb.recompute (fun _ _ => rfl) (by simp)
  derived := derived_recompute _

theorem RecordReplaced.answer (h : RecordReplaced rest u d s t) (r : Reply) : RecordReplaced rest u d s (t.answer r) :=
  ⟨h.record, h.others, h.mem, h.regs, h.busy, h.took, h.sta, h.stb, h.derived.answer r⟩

theorem RecordReplaced.sameUnit (h : RecordReplaced rest u d s t) {v : UnitNo} (hv : v ≠ u) : SameUnit s t v := by
  rw [SameUnit, h.others v hv]
  exact ⟨rfl, rfl, rfl, rfl, rfl⟩

theorem RecordReplaced.sameStore_other (h : RecordReplaced rest u d s t) {v : UnitNo} (hv : v ≠ u) :
    SameStore s t v := by
  rw [SameStore, h.others v hv]
  exact fun _ => rfl

/-- A record that keeps the store keeps every store. -/
theorem RecordReplaced.sameStore (h : RecordReplaced rest u d s t) (hd : d.store = (s.unit u).store) (v : UnitNo) :
    SameStore s t v := by
  by_cases hv : v = u
  · rw [SameStore, hv, h.record, hd]
    exact fun _ => rfl
  · exact h.sameStore_other hv
end

/-! ### Attach, detach and the write lock -/

section
variable (s : State) {u : UnitNo} {i : Image}

/-- An image of at most CAP words and a unit of the configuration: the unit gets the image's store (R220). -/
theorem attachUnit_of_lt (hlen : i.len ≤ 10393600) (hu : u.val < s.cfg.numUnits) (rest : List HostCall) :
    ∃ t, attachUnit u i { s with host := rest } = .next t ∧ t.reply = .attached true ∧
      RecordReplaced rest u { s.unit u with store := Image.store i, attached := true } s t := by
  rw [attachUnit, CAP_eq, if_neg (Nat.not_lt.2 hlen), if_neg (Nat.not_le.2 hu)]
  exact ⟨_, rfl, rfl, (recordReplaced_recompute rest u _ s).answer _⟩

/-- A unit that the configuration does not have cannot be attached (R220). -/
theorem attachUnit_of_le (hlen : i.len ≤ 10393600) (hu : s.cfg.numUnits ≤ u.val) :
    attachUnit u i s = .next (s.answer (.attached false)) := by
  rw [attachUnit, CAP_eq, if_neg (Nat.not_lt.2 hlen), if_pos hu]

/-- A longer image is no move of the host (R228). -/
theorem attachUnit_of_long (hlen : 10393600 < i.len) : attachUnit u i s = .refused .imageTooLong := by
  rw [attachUnit, CAP_eq, if_pos hlen]
end

theorem recordReplaced_detachUnit (rest : List HostCall) (u : UnitNo) (s : State) :
    RecordReplaced rest u { s.unit u with attached := false } s (detachUnit u { s with host := rest }) :=
  (recordReplaced_recompute rest u _ s).answer _

theorem recordReplaced_setWriteLock (rest : List HostCall) (u : UnitNo) (b : Bool) (s : State) :
    RecordReplaced rest u { s.unit u with wlk := b } s (setWriteLock u b { s with host := rest }) :=
  recordReplaced_recompute rest u _ s

/-- An attach does not wait for a due event (log 5). -/
theorem step_attach {s : State} {u : UnitNo} {i : Image} {rest : List HostCall} (hhost : s.host = .attach u i :: rest) :
    step s = attachUnit u i { s with host := rest } :=
  step_call hhost (fun hw => nomatch hw)

/-- Settles O39: the three cases of `attachUnit`; the store of the bound image reads by `readWord_imageOf`. -/
theorem attachBindsTheImage : Obligations.AttachBindsTheImage := by
  unfold Obligations.AttachBindsTheImage
  refine ⟨fun s u ws rest hhost hlen => ⟨fun hu => ?_, fun hu => ?_⟩, fun s u i rest hhost hlen => ?_⟩
  · obtain ⟨t, hrun, hreply, h⟩ := attachUnit_of_lt (i := imageOf ws) s hlen hu rest
    refine ⟨t, (step_attach hhost).trans hrun, hreply, ?_, fun a => ?_, ?_, ?_, ?_, ?_,
      fun v hv => ⟨h.sameUnit hv, h.sameStore_other hv⟩, h.mem, h.regs, h.busy, h.took, h.sta, h.stb, h.derived⟩
    all_goals rw [h.record]
    exact readWord_imageOf ws a
  · exact (step_attach hhost).trans (attachUnit_of_le { s with host := rest } hlen hu)
  · exact (step_attach hhost).trans (attachUnit_of_long { s with host := rest } hlen)

/-- Settles O40: the record loses its attachment alone, and the answer is its store. -/
theorem detachKeepsThePendingEvent : Obligations.DetachKeepsThePendingEvent := by
  unfold Obligations.DetachKeepsThePendingEvent
  intro s u rest hhost
  have hrun : step s = .next (detachUnit u { s with host := rest }) := step_call hhost (fun hw => nomatch hw)
  have h := recordReplaced_detachUnit rest u s
  refine ⟨_, hrun, rfl, ?_, ?_, ?_, ?_, ?_, fun _ => h.sameUnit, h.sameStore rfl, h.mem, h.regs, h.busy, h.took, h.sta,
    h.stb, h.derived⟩ <;>
    rw [h.record]

/-- Settles O41: the record takes the lock alone, and the recompute keeps the answer. -/
theorem writeLockChangeShowsAtOnce : Obligations.WriteLockChangeShowsAtOnce := by
  unfold Obligations.WriteLockChangeShowsAtOnce
  intro s u b rest hhost
  have hrun : step s = .next (setWriteLock u b { s with host := rest }) := step_call hhost (fun hw => nomatch hw)
  have h := recordReplaced_setWriteLock rest u b s
  refine ⟨_, hrun, ?_, ?_, ?_, ?_, ?_, fun _ => h.sameUnit, h.sameStore rfl, h.mem, h.regs, h.busy, h.took,
    recompute_reply 0 0 _, h.sta, h.stb, h.derived⟩ <;>
    rw [h.record]

/-! ### Calls that leave the units alone -/

/-- Settles O29: a function row starts at `fireEvent`, which refuses an event that is not due. -/
theorem completionNotDueIsRefused : Obligations.CompletionNotDueIsRefused := by
  unfold Obligations.CompletionNotDueIsRefused
  intro f u ied iea go flags s hnot
  rw [exec_functionRow_eq, fireEvent_not_due hnot]
  rfl

/-- Some attention bit is set (R25). -/
theorem hasAny_ATTN_ALL_iff (w : Word) : hasAny w ATTN_ALL = true ↔ ∃ i, 10 ≤ i ∧ bit w i = true := by
  rw [hasAny_iff]
  refine exists_congr fun i => ?_
  rw [getLsbD_ATTN_ALL, decide_eq_true_iff]
  exact ⟨fun ⟨hw, hi, _⟩ => ⟨hi, hw⟩, fun ⟨hi, hw⟩ => ⟨hw, hi, BitVec.lt_of_getLsbD hw⟩⟩

theorem ready_iff (s : State) :
    s.ready = true ↔ bit s.sta 1 = true ∨ bit s.sta 0 = true ∨ ∃ i, 10 ≤ i ∧ bit s.stb i = true := by
  rw [State.ready, hasAny_DON_ERR, Bool.or_eq_true, Bool.or_eq_true, hasAny_ATTN_ALL_iff,
    or_comm (a := s.sta.getLsbD 0 = true), or_assoc]

/-- Settles O43: the call writes the answer alone, and `ready_iff` says which. -/
theorem readyPredicate : Obligations.ReadyPredicate := by
  unfold Obligations.ReadyPredicate
  intro s rest hhost
  exact ⟨s.ready, step_call hhost (fun hw => nomatch hw), ready_iff s⟩

end Sys2Proof.Machine

/-! The reset and the creation state (70_reset_and_hazards.md R260 to R263), and the registers that stay put while the
controller is busy (R266, R270). -/

namespace Sys2Proof.Machine

/-! ### What a reset leaves -/

/-- A recompute of cleared status registers, where unit 0 is at rest in cylinder 0: the lock of unit 0 shows in status A, its
detachment in both registers, and the interrupt stays low, since no enable is set (R113, R114, R117, R118). -/
theorem recompute_of_cleared {s : State} {wlk attached : Bool} {store : Memory} (hsta : s.sta = 0) (hstb : s.stb = 0)
    (hunit : s.unit 0 = ⟨0, ⟨.idle, false⟩, attached, wlk, store, none⟩) :
    recompute 0 0 s =
      { s with
        sta := (if wlk then 0o10#18 else 0) ||| (if attached then 0 else 0o1#18)
        stb := if attached then 0 else 0o1001#18
        irq := false } := by
  have hsel : unitField (mergedA 0 s) = 0 := by
    rw [mergedA, hsta]
    rfl
  have hdynA : dynamicA s 0 = if wlk then SUWP else 0 := by
    simp [dynamicA, hunit, CYLINDERS]
  have hdynB : dynamicB s 0 = if attached then 0 else SUFU ||| SUNR := by
    cases attached <;> simp [dynamicB, hunit, State.seeking, State.pending]
  rw [recompute_eq, hsel, hdynA, hdynB, mergedA, mergedB, hsta, hstb]
  cases wlk <;> cases attached <;> rfl

/-- A reset, field by field: the registers and events are cleared, and the status registers and the interrupt level are what
the recompute derives of unit 0 (R260, R261, R262). -/
theorem resetController_eq (s : State) :
    resetController s =
      { s with
        sta := (if (s.unit 0).wlk then 0o10#18 else 0) ||| (if (s.unit 0).attached then 0 else 0o1#18)
        stb := if (s.unit 0).attached then 0 else 0o1001#18
        da := 0
        ma := 0
        wc := 0
        busy := false
        irq := false
        units := s.mapUnits (fun d => { d with ev := none, cyl := 0, func := ⟨.idle, false⟩ }) } :=
  recompute_of_cleared rfl rfl (store := (s.unit 0).store) rfl

/-- Settles O42: the call does not wait for a due event, and `resetController_eq` and `resetController_unit` say what the
reset leaves. -/
theorem resetClearsTheController : Obligations.ResetClearsTheController := by
  unfold Obligations.ResetClearsTheController
  intro s rest hhost
  have hrun : step s = .next (resetController { s with host := rest }) := step_call hhost (fun hw => nomatch hw)
  refine ⟨_, hrun, ?_, ?_, ?_, ?_, ?_, fun u => ?unit, ?_⟩
  case unit =>
    rw [SameStore, resetController_unit]
    exact ⟨rfl, rfl, rfl, rfl, rfl, fun _ => rfl⟩
  all_goals rw [resetController_eq]
  exact ⟨fun _ => rfl, ⟨rfl, rfl, rfl, rfl, rfl, rfl⟩, rfl, rfl, rfl⟩

/-! ### The creation state -/

theorem unit_reset (u : UnitNo) : State.reset.unit u = Drive.created :=
  Vector.getElem_replicate _

/-- Settles O1: every unit is as created, and `resetController_eq` on those units gives back the state. -/
theorem creationState : Obligations.CreationState := by
  unfold Obligations.CreationState
  have hreset : resetController State.reset = State.reset := resetController_eq State.reset
  refine ⟨rfl, rfl, rfl, rfl, rfl, rfl, rfl, fun u => ?_, hreset⟩
  rw [unit_reset]
  exact ⟨rfl, rfl, rfl, rfl, rfl, fun _ => rfl⟩

/-! ### The registers while busy -/

/-- While busy no load phase is performed (R131). -/
theorem LoadResult.regs_of_busy {c : BitVec 7} {v : Word} {s x : State} (h : LoadResult c v s x) (hb : s.busy = true) :
    SameRegs s x := by
  cases h with
  | none | rejected => exact ⟨rfl, rfl, rfl⟩
  | diskAddress hidle | clearFlags hidle | memoryAddress hidle | wordCount hidle | statusA hidle =>
    exact absurd (hb.symm.trans hidle) (by simp)

/-- While busy no call but a reset and a completion changes `da`, `ma` or `wc` (R266, R270). -/
theorem hostCall_regs_of_busy {call : HostCall} {s t : State} (hc : ∀ u, call ≠ .eventFired u) (hr : call ≠ .reset)
    (h : hostCall call s = .next t) (hb : s.busy = true) : SameRegs s t := by
  cases call with
  | command c v =>
    rcases command_cases h with ⟨w, q, x, rfl, hx⟩ | ⟨-, -, rfl⟩
    · simpa [SameRegs] using hx.regs_of_busy hb
    · exact ⟨rfl, rfl, rfl⟩
  | eventFired u => exact absurd rfl (hc u)
  | reset => exact absurd rfl hr
  | attach u i =>
    rcases attachUnit_next h with rfl | ⟨-, -, rfl⟩
    · exact ⟨rfl, rfl, rfl⟩
    · exact (sameOutside_recompute 0 0 _).regs
  | detach u | setWriteLock u b =>
    cases h
    exact (sameOutside_recompute 0 0 _).regs
  | poke a v =>
    obtain ⟨-, rfl⟩ := pokeMemory_next h
    exact ⟨rfl, rfl, rfl⟩
  | tick | ready | storageFault b =>
    cases h
    exact ⟨rfl, rfl, rfl⟩

/-- Settles O55: of the cases of `step_cases` a due completion is excluded and a call keeps the registers by the busy gate;
the read/write field is as before by `readWriteFieldChangesOnlyByLoads`. -/
theorem registersAreFrozenWhileBusy : Obligations.RegistersAreFrozenWhileBusy := by
  unfold Obligations.RegistersAreFrozenWhileBusy
  intro s t hb hnone hnoreset hstep
  constructor
  · rcases step_cases hstep with ⟨rfl, -, -⟩ | ⟨u, -, -, hdue, -⟩ | ⟨call, rest, hhost, -, hother, hrun⟩ |
      ⟨u, rest, -, -, rfl⟩
    · exact ⟨rfl, rfl, rfl⟩
    · exact absurd hdue (hnone u)
    · have hr : call ≠ .reset := fun he => hnoreset rest (he ▸ hhost)
      exact hostCall_regs_of_busy (s := { s with host := rest }) hother hr hrun hb
    · exact ⟨rfl, rfl, rfl⟩
  · intro i hi
    by_contra hne
    rcases readWriteFieldChangesOnlyByLoads s t i hstep hi hne with ⟨rest, hhost⟩ | ⟨-, hidle, -⟩
    · exact hnoreset rest hhost
    · exact absurd (hb.symm.trans hidle) (by simp)

end Sys2Proof.Machine

/-! The creation state has the invariant (10_state.md R27, R33 to R36; 70_reset_and_hazards.md R263). Its reset gives it back,
and a reset of any sound state has the invariant, so only the part that a recompute relies on is left to check. -/

namespace Sys2Proof.Machine

/-- A unit as created is well-formed in every position of every configuration (R263). -/
theorem recordOk_created (cfg : Config) (u : UnitNo) : RecordOk cfg u Drive.created where
  store := ⟨⟨.nil, by simp [Drive.created]⟩, by simp [Drive.created]⟩
  absent _ := rfl
  tag h := absurd h (by simp [Drive.created])

theorem not_inFirstPhase_reset (u : UnitNo) : ¬State.reset.inFirstPhase u := by
  rw [inFirstPhase_iff, unit_reset]
  simp [Drive.created]

/-- The defaults are in their ranges (log 1), memory is empty (log 8), the units are as created and the controller is idle. -/
theorem sound_reset : Sound State.reset where
  cfg := by decide
  mem := ⟨⟨.nil, by simp [State.reset]⟩, by simp [State.reset]⟩
  records u := by
    rw [unit_reset]
    exact recordOk_created _ u
  media := by decide
  owned := .of_idle rfl not_inFirstPhase_reset

/-- Settles O2: the creation state is the reset of itself, a sound state. -/
theorem invariantHoldsAtReset : Obligations.InvariantHoldsAtReset := by
  unfold Obligations.InvariantHoldsAtReset
  have hreset : resetController State.reset = State.reset := resetController_eq State.reset
  exact hreset ▸ invariant_resetController sound_reset

end Sys2Proof.Machine
